-- ==== Sys2Proof/Word.lean ====
section
/-! DEFINITION. The words, half indexes and frames that the PPCA's rules speak of (00_scope.md R11, R14; 30_encoding.md R66–R68). -/

namespace Sys2Proof

/-- A 32-bit value (00_scope.md R11): a register, an address, a sample or a word of a label. -/
abbrev Word := BitVec 32

/-- The smallest addressable unit of the data space (20_memory.md R38). -/
abbrev Byte := BitVec 8

/-- A half index (30_encoding.md R68): which half of a split buffer. -/
inductive Half where
  | half0
  | half1
  deriving DecidableEq, Repr, Inhabited

/-- The half index as the number 0 or 1. -/
def Half.index : Half → Nat
  | .half0 => 0
  | .half1 => 1

/-- The half index as the bit a register shows. -/
def Half.toBool : Half → Bool
  | .half0 => false
  | .half1 => true

/-- The spec's `1 - h`. -/
def Half.other : Half → Half
  | .half0 => .half1
  | .half1 => .half0

/-- A stereo frame: a left and a right 32-bit sample (00_scope.md R14). -/
structure Frame where
  l : Word
  r : Word
  deriving DecidableEq, Repr, Inhabited

end Sys2Proof
end

