-- ==== Sys2Proof/Config.lean ====
section
/-! DEFINITION. The implementation parameters of 00_scope.md R8, and the free values the spec leaves open (20_memory.md R41, 40_transform.md R72, 42_session.md R98). -/

namespace Sys2Proof

/-- BYTE_ORDER (00_scope.md R8, 20_memory.md R43). -/
inductive ByteOrder where
  | little
  | big
  deriving DecidableEq, Repr, Inhabited

/-- XFORM by name (00_scope.md R8, log entry 2): XFORM_REF of 40_transform.md R73, or an arbitrary
function under the contract of R72. -/
inductive TransformChoice where
  | reference
  | replacement
  deriving DecidableEq, Repr, Inhabited

/-- `cfg_valid` by name (00_scope.md R8, log entry 2): the two constant checks that
95_test_vectors.md uses (section 1 and V-T13), or the collaborator's own, which nothing constrains. -/
inductive CfgCheck where
  | acceptAll
  | rejectAll
  | collaborator
  deriving DecidableEq, Repr, Inhabited

/-- The parameters of 00_scope.md R8. The ranges R8 gives are carried by the fields' types, so that
no parameter set outside them can be written. -/
structure Params where
  /-- `N - 1`, with `1 ≤ N ≤ 32768`. -/
  framesPred : Fin 32768
  /-- `BUF_ALIGN = 2 ^ (alignLog + 2)`, a power of two of at least 4. -/
  alignLog : Nat
  /-- `NUM_CH - 1`, with `1 ≤ NUM_CH ≤ 16`. -/
  numChPred : Fin 16
  /-- BLOCK_BASE; no rule observes it, because register accesses use offsets (93 I7). -/
  blockBase : Word
  /-- XFORM. -/
  transform : TransformChoice
  /-- `cfg_valid`. -/
  cfgCheck : CfgCheck
  /-- START_HALF. -/
  startHalf : Half
  /-- PTR_ALT. -/
  ptrAlt : Word
  /-- BENCH. -/
  bench : Bool
  /-- BYTE_ORDER. -/
  byteOrder : ByteOrder
  deriving DecidableEq, Repr, Inhabited

/-- N, that is AUDIO_BUFFER_FRAMES. -/
def Params.n (p : Params) : Nat := p.framesPred.val + 1

/-- STEREO_BUFFER_SIZE, in samples. -/
def Params.stereoBufferSize (p : Params) : Nat := 2 * p.n

/-- The size of one split buffer in bytes (00_scope.md R9). -/
def Params.splitBytes (p : Params) : Nat := 16 * p.n

/-- BUF_ALIGN, in bytes. -/
def Params.bufAlign (p : Params) : Nat := 2 ^ (p.alignLog + 2)

/-- NUM_CH. -/
def Params.numCh (p : Params) : Nat := p.numChPred.val + 1

/-- The parameters of the machine that `State.reset` describes: nothing constrains them (log entry 1). -/
opaque Config.params : Params

/-- A replacement transform: any function of the input frame alone (40_transform.md R72). -/
opaque Config.xform : Frame → Frame

/-- The collaborator's configuration check, over SAMPLE_RATE_HZ, BIT_DEPTH, CLK_MULT, PINS,
SCLK_OUT_EN and IN_CH in that order (42_session.md R98). -/
opaque Config.cfgValid : Word → Word → Word → Word → BitVec 1 → BitVec 4 → Bool

/-- The k-th draw of a run (00_scope.md R12, 20_memory.md R41, log entry 3). -/
opaque Config.draw : Nat → Word

end Sys2Proof
end

