-- ==== Sys2Proof/Syntax.lean ====
section
/-! DEFINITION. The nine operations of 30_encoding.md R58 (opcode_table.json), their operand kinds and their agents. -/

namespace Sys2Proof

/-- The agents that take steps (00_scope.md R7). -/
inductive Agent where
  | host
  | arb
  | te
  | bench
  deriving DecidableEq, Repr

/-- BENCH_LOAD's region (30_encoding.md R59): 0 is the input region, 1 the output region. -/
inductive Buf where
  | input
  | output
  deriving DecidableEq, Repr

/-- The mapped registers of 10_state.md R28. -/
inductive Reg where
  | ctrl
  | status
  | inBase
  | outBase
  | frames
  | inCh
  | sampleRate
  | bitDepth
  | clkMult
  | pins
  | sclkOutEn
  deriving DecidableEq, Repr

/-- One operation label, decoded. Every operand has exactly the width its field has in
30_encoding.md R58 and R59, so an operand outside its field cannot be written. -/
inductive Instr where
  | hostIdle
  | regRead (widx : BitVec 8)
  | regWrite (widx : BitVec 8) (data : Word)
  | arbSample
  | arbXframe (fidx : BitVec 16)
  | arbAck
  | teStep (rxl rxr : Word)
  | benchLoad (buf : Buf) (kidx value : Word)
  | benchRaise (ptr : Word)
  deriving DecidableEq, Repr

/-- Whose step a label is (30_encoding.md R58, R64). -/
def Instr.agent : Instr → Agent
  | .hostIdle => .host
  | .regRead _ => .host
  | .regWrite _ _ => .host
  | .arbSample => .arb
  | .arbXframe _ => .arb
  | .arbAck => .arb
  | .teStep _ _ => .te
  | .benchLoad _ _ _ => .bench
  | .benchRaise _ => .bench

end Sys2Proof
end

