-- ==== Sys2Proof/WellFormed.lean ====
section
/-! DEFINITION. When a list of words is one well-formed label (30_encoding.md R57–R63), read from the opcode table's own match and mask numbers, apart from the decoder. -/

namespace Sys2Proof

/-- One row of 30_encoding.md R58 as opcode_table.json writes it. -/
structure OpcodeRow where
  /-- The bits the row fixes. -/
  mask : Word
  /-- Their values. -/
  pattern : Word
  /-- How many payload words follow the header (R60). -/
  payload : Nat
  deriving DecidableEq, Repr

/-- The row's test: `(header & mask) == match` (30_encoding.md R61). -/
def OpcodeRow.accepts (row : OpcodeRow) (h : Word) : Bool := h &&& row.mask == row.pattern

/-- opcode_table.json, in its order. -/
def opcodeRows : List OpcodeRow :=
  [ { mask := 0xFFFFFFFF#32, pattern := 0x00000000#32, payload := 0 },
    { mask := 0xFFFFFF00#32, pattern := 0x01000000#32, payload := 0 },
    { mask := 0xFFFFFF00#32, pattern := 0x02000000#32, payload := 1 },
    { mask := 0xFFFFFFFF#32, pattern := 0x10000000#32, payload := 0 },
    { mask := 0xFFFF0000#32, pattern := 0x11000000#32, payload := 0 },
    { mask := 0xFFFFFFFF#32, pattern := 0x12000000#32, payload := 0 },
    { mask := 0xFFFFFFFF#32, pattern := 0x20000000#32, payload := 2 },
    { mask := 0xFFFFFFFE#32, pattern := 0x30000000#32, payload := 2 },
    { mask := 0xFFFFFFFF#32, pattern := 0x31000000#32, payload := 1 } ]

/-- A header is well formed when some row accepts it (30_encoding.md R61, R62). -/
def headerWellFormed (h : Word) : Bool := opcodeRows.any fun row => row.accepts h

/-- A list of words is one well-formed label when a row accepts its first word and exactly that
row's payload follows (30_encoding.md R57, R60). -/
def labelWellFormed : List Word → Bool
  | [] => false
  | h :: payload => opcodeRows.any fun row => row.accepts h && payload.length == row.payload

end Sys2Proof
end

