-- ==== Sys2Proof/Decode.lean ====
section
/-! DEFINITION. Decoding label words to operations and encoding them again (30_encoding.md R57–R65). -/

namespace Sys2Proof

/-- Why a header is invalid (30_encoding.md R61). -/
inductive DecodeError where
  /-- The OP value names no row (R63). -/
  | reservedOp
  /-- An OPERAND bit that the operation does not define is 1 (R62). -/
  | reservedOperand
  deriving DecidableEq, Repr

/-- A valid header: the operation and its OPERAND fields, without the payload. -/
inductive Header where
  | hostIdle
  | regRead (widx : BitVec 8)
  | regWrite (widx : BitVec 8)
  | arbSample
  | arbXframe (fidx : BitVec 16)
  | arbAck
  | teStep
  | benchLoad (buf : Buf)
  | benchRaise
  deriving DecidableEq, Repr

/-- What stands at the front of a list of label words. -/
inductive Decoded where
  /-- A whole label, and the words after it. -/
  | label (i : Instr) (rest : List Word)
  /-- An invalid header, which takes one word (R60, R61), and the words after it. -/
  | invalid (why : DecodeError) (rest : List Word)
  /-- A valid header with fewer payload words than R60 gives it. -/
  | truncated
  /-- No word at all. -/
  | empty
  deriving DecidableEq, Repr

/-- OP, bits [31:24] (R57). -/
def opField (h : Word) : BitVec 8 := h.extractLsb' 24 8

/-- The header `head` if the reserved OPERAND bits of `h`, those of `reserved`, are all 0 (R62). -/
def whenReservedZero (h reserved : Word) (head : Header) : Except DecodeError Header :=
  if h &&& reserved = 0#32 then .ok head else .error .reservedOperand

/-- BUF, bit 0 (R59). -/
def bufField (h : Word) : Buf := if h.getLsbD 0 then .output else .input

/-- The header by its OP value (R58), with the operand fields of R59. -/
def decodeHeader (h : Word) : Except DecodeError Header :=
  if opField h = 0x00#8 then whenReservedZero h 0x00FFFFFF#32 .hostIdle
  else if opField h = 0x01#8 then whenReservedZero h 0x00FFFF00#32 (.regRead (h.extractLsb' 0 8))
  else if opField h = 0x02#8 then whenReservedZero h 0x00FFFF00#32 (.regWrite (h.extractLsb' 0 8))
  else if opField h = 0x10#8 then whenReservedZero h 0x00FFFFFF#32 .arbSample
  else if opField h = 0x11#8 then whenReservedZero h 0x00FF0000#32 (.arbXframe (h.extractLsb' 0 16))
  else if opField h = 0x12#8 then whenReservedZero h 0x00FFFFFF#32 .arbAck
  else if opField h = 0x20#8 then whenReservedZero h 0x00FFFFFF#32 .teStep
  else if opField h = 0x30#8 then whenReservedZero h 0x00FFFFFE#32 (.benchLoad (bufField h))
  else if opField h = 0x31#8 then whenReservedZero h 0x00FFFFFF#32 .benchRaise
  else .error .reservedOp

/-- How many payload words follow (R60). -/
def Header.payloadCount : Header → Nat
  | .hostIdle => 0
  | .regRead _ => 0
  | .regWrite _ => 1
  | .arbSample => 0
  | .arbXframe _ => 0
  | .arbAck => 0
  | .teStep => 2
  | .benchLoad _ => 2
  | .benchRaise => 1

/-- Read a header's payload from the words after it. -/
def takePayload : Header → List Word → Decoded
  | .hostIdle, rest => .label .hostIdle rest
  | .regRead widx, rest => .label (.regRead widx) rest
  | .regWrite widx, data :: rest => .label (.regWrite widx data) rest
  | .arbSample, rest => .label .arbSample rest
  | .arbXframe fidx, rest => .label (.arbXframe fidx) rest
  | .arbAck, rest => .label .arbAck rest
  | .teStep, rxl :: rxr :: rest => .label (.teStep rxl rxr) rest
  | .benchLoad buf, kidx :: value :: rest => .label (.benchLoad buf kidx value) rest
  | .benchRaise, ptr :: rest => .label (.benchRaise ptr) rest
  | .regWrite _, [] => .truncated
  | .teStep, [] => .truncated
  | .teStep, [_] => .truncated
  | .benchLoad _, [] => .truncated
  | .benchLoad _, [_] => .truncated
  | .benchRaise, [] => .truncated

/-- The label at the front of a list of words; total on any words (R61). -/
def decode : List Word → Decoded
  | [] => .empty
  | h :: rest =>
    match decodeHeader h with
    | .error why => .invalid why rest
    | .ok head => takePayload head rest

/-- How many words a label with this header takes (R60): an invalid header takes one. -/
def labelLength (h : Word) : Nat :=
  match decodeHeader h with
  | .error _ => 1
  | .ok head => 1 + head.payloadCount

/-- BUF as an OPERAND bit (R59). -/
def Buf.operand : Buf → Word
  | .input => 0#32
  | .output => 1#32

/-- The words of a label (R57–R59, R65). -/
def encode : Instr → List Word
  | .hostIdle => [0x00000000#32]
  | .regRead widx => [0x01000000#32 ||| widx.setWidth 32]
  | .regWrite widx data => [0x02000000#32 ||| widx.setWidth 32, data]
  | .arbSample => [0x10000000#32]
  | .arbXframe fidx => [0x11000000#32 ||| fidx.setWidth 32]
  | .arbAck => [0x12000000#32]
  | .teStep rxl rxr => [0x20000000#32, rxl, rxr]
  | .benchLoad buf kidx value => [0x30000000#32 ||| buf.operand, kidx, value]
  | .benchRaise ptr => [0x31000000#32, ptr]

/-- The first three words of a label whose lowest `nbits` bits are those of `w` and whose other
bits are 0, the header lowest (opcode_table.json numbers bit 0 as the header's least significant). -/
def tableWords (nbits w : Nat) : List Word :=
  [BitVec.ofNat 32 (w % 2 ^ nbits), BitVec.ofNat 32 (w % 2 ^ nbits / 2 ^ 32),
    BitVec.ofNat 32 (w % 2 ^ nbits / 2 ^ 64)]

/-- Exactly the words of the label that `tableWords` begins with. -/
def tableLabel (nbits w : Nat) : List Word :=
  (tableWords nbits w).take (labelLength (BitVec.ofNat 32 (w % 2 ^ nbits)))

/-- What the decoder reads from a label given as one number. -/
def decodeTableWord (nbits w : Nat) : Option Instr :=
  match decode (tableWords nbits w) with
  | .label i _ => some i
  | .invalid _ _ => none
  | .truncated => none
  | .empty => none

end Sys2Proof
end

