-- ==== Sys2Proof/Machine/State.lean ====
section
/-! DEFINITION. The PPCA's state (10_state.md), its memory as plain data, the reasons a step stops or is refused, and the state after reset (10_state.md R37). -/

namespace Sys2Proof.Machine

/-- Why the machine stops: for no reason, since the PPCA raises no exception, trap or fault
(60_exceptions.md R115) and no memory access can fault (20_memory.md R49). -/
inductive Fault where
  deriving DecidableEq, Repr

/-- Why a step has no next state. -/
inductive Refusal where
  /-- An operation without a meaning; raised by no arm of `exec` in this model. Safe. -/
  | notModelled (mnemonic : String)
  /-- The step's `enabled if` condition is false, so the step does not exist in this state
  (00_scope.md R13, outcome 3); raised by the ARB and TE operations. Safe (log entry 6). -/
  | notEnabled
  /-- The schedule holds no label; raised by `step`. Safe (log entry 5). -/
  | noLabel
  /-- The schedule ends inside a label; raised by `step`. Safe (log entry 5). -/
  | truncatedLabel
  deriving DecidableEq, Repr

/-- The reasons REFUSE_REASON records (60_exceptions.md R116). -/
inductive RefuseReason where
  /-- RF_ILLEGAL_LABEL -/
  | illegalLabel
  /-- RF_MODE -/
  | mode
  /-- RF_REG_UNMAPPED -/
  | regUnmapped
  /-- RF_CFG_LOCKED -/
  | cfgLocked
  /-- RF_START_AGAIN -/
  | startAgain
  /-- RF_PTR_ALT -/
  | ptrAlt
  /-- RF_NOT_ACTIVE -/
  | notActive
  /-- RF_BENCH_RANGE -/
  | benchRange
  /-- RF_BENCH_OWNED -/
  | benchOwned
  deriving DecidableEq, Repr

/-- Memory: the written bytes, by address. A word of 10_state.md R32 is in WRITTEN when its four
bytes are listed (log entry 9). -/
abbrev Memory := List Host.Cell

/-- What an address that memory does not list reads as: no value, so that a word holding it is a draw
(20_memory.md R41). -/
def Memory.unlisted : Option Byte := none

/-- The addresses of `m` rise strictly, from `low` on, and stay inside the 32-bit address space. -/
def Memory.risesFrom (low : Nat) : Memory → Bool
  | [] => true
  | (a, _) :: m => decide (low ≤ a) && decide (a < 2 ^ 32) && Memory.risesFrom (a + 1) m

/-- Memory's one canonical form: strictly rising addresses inside the address space. No cell can hold
what an unlisted address reads as, since that is no value. -/
def Memory.wf (m : Memory) : Bool := Memory.risesFrom 0 m

/-- Everything the spec gives the machine (10_state.md R16), the parameters it runs with, and the
model's own schedule and draw counter. -/
structure State where
  /-- The parameters of 00_scope.md R8. No step writes them (log entry 1). -/
  par : Params
  /-- ACTIVE (10_state.md R18). -/
  active : Bool
  /-- CFG_ERR (R19). -/
  cfgErr : Bool
  /-- BUSY (R20). -/
  busy : Bool
  /-- SEL (R21). -/
  sel : Half
  /-- SEL_VALID (R22). -/
  selValid : Bool
  /-- IDX (R23). -/
  idx : BitVec 16
  /-- CMPL_FLAG (R24). -/
  cmplFlag : Bool
  /-- IN_PTR (R25). -/
  inPtr : Word
  /-- TE_HALF (R26). -/
  teHalf : Half
  /-- TE_POS (R26). -/
  tePos : BitVec 16
  /-- IN_BASE (R28). -/
  inBase : Word
  /-- OUT_BASE (R28). -/
  outBase : Word
  /-- IN_CH.CH (R28). -/
  inCh : BitVec 4
  /-- SAMPLE_RATE_HZ (R28). -/
  sampleRate : Word
  /-- BIT_DEPTH (R28). -/
  bitDepth : Word
  /-- CLK_MULT (R28). -/
  clkMult : Word
  /-- PINS (R28). -/
  pins : Word
  /-- SCLK_OUT_EN.EN (R28). -/
  sclkOutEn : BitVec 1
  /-- The written part of the data space (R32). -/
  mem : Memory
  /-- OWN_VIOL (R33). -/
  ownViol : Bool
  /-- EVT_LOST (R33). -/
  evtLost : Bool
  /-- ALT_BREAK (R33). -/
  altBreak : Bool
  /-- REFUSED (R34). -/
  refused : Bool
  /-- REFUSE_REASON (R34). -/
  refuseReason : Option RefuseReason
  /-- TX, oldest first (R35). -/
  tx : List Frame
  /-- RD, oldest first (R35). -/
  rd : List Word
  /-- ACKS: the values sent on the port `ack`, oldest first (43_transfer_interface.md R102). -/
  acks : List Word
  /-- How many events the port `start` has carried (43_transfer_interface.md R102). -/
  starts : Nat
  /-- The model's own: the label words not yet taken, in the order of the schedule (log entry 5). -/
  labels : List Word
  /-- The model's own: how many draws have been made (log entry 3). -/
  draws : Nat
  deriving DecidableEq, Repr

/-- The state after reset of a machine with the given parameters (10_state.md R37). IN_PTR, which R37
leaves unspecified, is 0 (log entry 4). -/
def State.resetFor (p : Params) : State where
  par := p
  active := false
  cfgErr := false
  busy := false
  sel := .half0
  selValid := false
  idx := 0#16
  cmplFlag := false
  inPtr := 0#32
  teHalf := .half0
  tePos := 0#16
  inBase := 0#32
  outBase := 0#32
  inCh := 0#4
  sampleRate := 0#32
  bitDepth := 0#32
  clkMult := 0#32
  pins := 0#32
  sclkOutEn := 0#1
  mem := []
  ownViol := false
  evtLost := false
  altBreak := false
  refused := false
  refuseReason := none
  tx := []
  rd := []
  acks := []
  starts := 0
  labels := []
  draws := 0

/-- The machine right after reset, with the parameters left open (10_state.md R37, R132; log entry 1). -/
def State.reset : State := State.resetFor Config.params

end Sys2Proof.Machine
end

