-- ==== Sys2Proof/Machine/Operands.lean ====
section
/-! DEFINITION. Every operand form: register offsets and write masks, sample addresses, bench addresses and buffer regions (30_encoding.md R59; 20_memory.md R39, R40). -/

namespace Sys2Proof.Machine

/-- The byte offset a WIDX names (30_encoding.md R59). -/
def regOffset (widx : BitVec 8) : Nat := 4 * widx.toNat

/-- The register at a byte offset; none where 10_state.md R28 maps nothing. -/
def regOfOffset (off : Nat) : Option Reg :=
  if off = 0x00 then some .ctrl
  else if off = 0x04 then some .status
  else if off = 0x08 then some .inBase
  else if off = 0x0C then some .outBase
  else if off = 0x10 then some .frames
  else if off = 0x14 then some .inCh
  else if off = 0x18 then some .sampleRate
  else if off = 0x1C then some .bitDepth
  else if off = 0x20 then some .clkMult
  else if off = 0x24 then some .pins
  else if off = 0x28 then some .sclkOutEn
  else none

/-- The register a REG_READ or REG_WRITE label names. -/
def regOperand (widx : BitVec 8) : Option Reg := regOfOffset (regOffset widx)

/-- `wmask` (42_session.md R95); 0 for the registers a write does not store into. -/
def wmask : Reg → Word
  | .ctrl => 0#32
  | .status => 0#32
  | .frames => 0#32
  | .inBase => 0xFFFFFFFF#32
  | .outBase => 0xFFFFFFFF#32
  | .inCh => 0x0000000F#32
  | .sampleRate => 0xFFFFFFFF#32
  | .bitDepth => 0xFFFFFFFF#32
  | .clkMult => 0xFFFFFFFF#32
  | .pins => 0xFFFFFFFF#32
  | .sclkOutEn => 0x00000001#32

/-- `saddr(B, h, i, c)` as an exact integer (20_memory.md R40). -/
def saddr (p : Params) (base : Word) (h : Half) (i c : Nat) : Nat :=
  base.toNat + 4 * (2 * p.n * h.index + 2 * i + c)

/-- The base of a BENCH_LOAD's region (43_transfer_interface.md R114). -/
def bufBase (buf : Buf) (s : State) : Word :=
  match buf with
  | .input => s.inBase
  | .output => s.outBase

/-- `base + 4*k` as an exact integer (30_encoding.md R59). -/
def benchAddr (base : Word) (kidx : Word) : Nat := base.toNat + 4 * kidx.toNat

/-- The half a sample index lies in, as a number (43_transfer_interface.md R114, corner b). -/
def halfOfSample (p : Params) (kidx : Word) : Nat := kidx.toNat / (2 * p.n)

/-- A byte address of the region of 20_memory.md R39 that starts at `base`. -/
def inRegion (p : Params) (base : Word) (a : Nat) : Prop :=
  base.toNat ≤ a ∧ a < base.toNat + p.splitBytes

/-- A byte address of half `h` of the region that starts at `base` (20_memory.md R39). -/
def inHalf (p : Params) (base : Word) (h : Half) (a : Nat) : Prop :=
  base.toNat + 8 * p.n * h.index ≤ a ∧ a < base.toNat + 8 * p.n * (h.index + 1)

/-- PINS.SCLK_PIN (10_state.md R28). -/
def sclkPin (pins : Word) : BitVec 8 := pins.extractLsb' 0 8

/-- PINS.DOUT_PIN (10_state.md R28). -/
def doutPin (pins : Word) : BitVec 8 := pins.extractLsb' 8 8

/-- PINS.DIN_PIN (10_state.md R28). -/
def dinPin (pins : Word) : BitVec 8 := pins.extractLsb' 16 8

/-- PINS.WCLK_BASE_PIN (10_state.md R28). -/
def wclkBasePin (pins : Word) : BitVec 8 := pins.extractLsb' 24 8

end Sys2Proof.Machine
end

