-- ==== Sys2Proof/Machine/Flags.lean ====
section
/-! DEFINITION. Every flag computation: the STATUS word, the ownership monitor, the refusal mark, the completion's merge and the alternation check (42_session.md R96; 41_arbiter.md R87; 60_exceptions.md R116; 10_state.md R33). -/

namespace Sys2Proof.Machine

/-- A flag as bit `i` of a word. -/
def flagBit (b : Bool) (i : Nat) : Word := if b then 1#32 <<< i else 0#32

/-- `status_word()` (42_session.md R96). -/
def statusWord (s : State) : Word :=
  flagBit s.active 0 ||| flagBit s.busy 1 ||| flagBit s.sel.toBool 2 ||| flagBit s.selValid 3
    ||| flagBit s.cfgErr 4 ||| flagBit s.cmplFlag 5

/-- The condition of the ownership monitor: the arbiter is processing the half the transfer engine
owns (41_arbiter.md R87). -/
def ownViolNow (s : State) : Bool :=
  s.active && s.busy && !s.par.bench && decide (s.sel = s.teHalf)

/-- `monitor` (41_arbiter.md R87). -/
def monitor (s : State) : State :=
  if ownViolNow s then { s with ownViol := true } else s

/-- `refuse <Reason>` (00_scope.md R13, 10_state.md R34): the mark is set, the first reason is kept,
and nothing else changes. -/
def refuse (reason : RefuseReason) (s : State) : State :=
  { s with
    refused := true
    refuseReason := match s.refuseReason with
      | none => some reason
      | some first => some first }

/-- A completion's effect on the flag and the pointer (43_transfer_interface.md R108, R113): a completion
that finds the flag set merges with the pending one, and EVT_LOST records it. -/
def raiseCompletion (ptr : Word) (s : State) : State :=
  { s with
    inPtr := ptr
    evtLost := s.evtLost || s.cmplFlag
    cmplFlag := true }

/-- ALT_BREAK after a selection of `h` (41_arbiter.md R82): set when the previous selection chose the
same half. -/
def altBreakAfter (h : Half) (s : State) : Bool :=
  s.altBreak || (s.selValid && decide (s.sel = h))

/-- The numeric code of a refusal reason (60_exceptions.md R116). -/
def RefuseReason.code : RefuseReason → Nat
  | .illegalLabel => 1
  | .mode => 2
  | .regUnmapped => 3
  | .cfgLocked => 4
  | .startAgain => 5
  | .ptrAlt => 6
  | .notActive => 7
  | .benchRange => 8
  | .benchOwned => 9

end Sys2Proof.Machine
end

