-- ==== Sys2Proof/Machine/Transform.lean ====
section
/-! DEFINITION. The frame transform (40_transform.md). -/

namespace Sys2Proof.Machine

/-- `trunc16` (40_transform.md R73). -/
def trunc16 (s : Word) : Word := s &&& 0xFFFF0000#32

/-- XFORM_REF, lane by lane (40_transform.md R73, R75). -/
def xformRef (f : Frame) : Frame := { l := trunc16 f.l, r := trunc16 f.r }

/-- XFORM, a function of the input frame and the fixed parameters alone (40_transform.md R72). -/
def xform (p : Params) (f : Frame) : Frame :=
  match p.transform with
  | .reference => xformRef f
  | .replacement => Config.xform f

end Sys2Proof.Machine
end

