-- ==== Sys2Proof/Machine/Ops.lean ====
section
/-! DEFINITION. The named operations over memory, frames and registers, the START action, the arbiter's entry and return, and the outcome of a step (20_memory.md; 41_arbiter.md; 42_session.md). -/

namespace Sys2Proof.Machine

/-- The byte memory lists at an address. -/
def Memory.byteAt : Memory → Nat → Option Byte
  | [], _ => Memory.unlisted
  | (b, v) :: m, a => if a = b then some v else Memory.byteAt m a

/-- Memory with one byte written, in canonical form again. -/
def Memory.setByte : Memory → Nat → Byte → Memory
  | [], a, v => [(a, v)]
  | (b, w) :: m, a, v =>
    if a < b then (a, v) :: (b, w) :: m
    else if a = b then (a, v) :: m
    else (b, w) :: Memory.setByte m a v

/-- Byte `i` of a word, counted from its least significant byte. -/
def wordByte (w : Word) (i : Nat) : Byte := w.extractLsb' (8 * i) 8

/-- Which byte of a word stands `i` bytes above the word's address (BYTE_ORDER, 20_memory.md R43). -/
def byteLane (order : ByteOrder) (i : Nat) : Nat :=
  match order with
  | .little => i
  | .big => 3 - i

/-- The word whose bytes, least significant first, are `b0` to `b3`. -/
def wordOfBytes (b0 b1 b2 b3 : Byte) : Word := b3 ++ b2 ++ b1 ++ b0

/-- The word of four bytes that stand at rising addresses. -/
def wordOfLanes (order : ByteOrder) (x0 x1 x2 x3 : Byte) : Word :=
  match order with
  | .little => wordOfBytes x0 x1 x2 x3
  | .big => wordOfBytes x3 x2 x1 x0

/-- Where byte `i` of the word at `a` stands: a byte address has 32 bits (20_memory.md R38), so the
bytes of a word that starts below the top go on from address 0 (log entry 11). -/
def laneAddr (a i : Nat) : Nat := (a + i) % 2 ^ 32

/-- The word at `a`, if its four bytes are written (10_state.md R32). -/
def Memory.readWord (order : ByteOrder) (m : Memory) (a : Nat) : Option Word :=
  match Memory.byteAt m (laneAddr a 0), Memory.byteAt m (laneAddr a 1),
    Memory.byteAt m (laneAddr a 2), Memory.byteAt m (laneAddr a 3) with
  | some x0, some x1, some x2, some x3 => some (wordOfLanes order x0 x1 x2 x3)
  | _, _, _, _ => none

/-- Memory with the word at `a` written. -/
def Memory.writeWord (order : ByteOrder) (m : Memory) (a : Nat) (w : Word) : Memory :=
  [0, 1, 2, 3].foldl (fun n i => Memory.setByte n (laneAddr a i) (wordByte w (byteLane order i))) m

/-- The byte a state's memory lists at an address: the one view of memory that frames speak of. -/
def State.byteAt (s : State) (a : Nat) : Option Byte := Memory.byteAt s.mem a

/-- The word a state's memory holds at an address, none while it is not in WRITTEN. -/
def State.wordAt (s : State) (a : Nat) : Option Word := Memory.readWord s.par.byteOrder s.mem a

/-- `MemRead(a, 4)` (20_memory.md R41): the word last written, or the next draw. No access can fault
(R49). -/
def memRead (a : Nat) (s : State) : Word × State :=
  match s.wordAt a with
  | some w => (w, s)
  | none => (Config.draw s.draws, { s with draws := s.draws + 1 })

/-- `MemWrite(a, 4, v)` (20_memory.md R42). No access can fault (R49). -/
def memWrite (a : Nat) (v : Word) (s : State) : State :=
  { s with mem := Memory.writeWord s.par.byteOrder s.mem a v }

/-- Read frame `i` of half `h`, left sample first (30_encoding.md R67). -/
def readFrame (base : Word) (h : Half) (i : Nat) (s : State) : Frame × State :=
  let left := memRead (saddr s.par base h i 0) s
  let right := memRead (saddr s.par base h i 1) left.2
  ({ l := left.1, r := right.1 }, right.2)

/-- Write frame `i` of half `h`, left sample first (30_encoding.md R67). -/
def writeFrame (base : Word) (h : Half) (i : Nat) (f : Frame) (s : State) : State :=
  memWrite (saddr s.par base h i 1) f.r (memWrite (saddr s.par base h i 0) f.l s)

/-- The frame memory holds at frame `i` of half `h`, none while one of its words is not in WRITTEN. -/
def State.frameAt (s : State) (base : Word) (h : Half) (i : Nat) : Option Frame :=
  match s.wordAt (saddr s.par base h i 0), s.wordAt (saddr s.par base h i 1) with
  | some l, some r => some { l := l, r := r }
  | _, _ => none

/-- What a read of a register returns (42_session.md R94); reserved bits are 0. -/
def readReg (reg : Reg) (s : State) : Word :=
  match reg with
  | .ctrl => 0#32
  | .status => statusWord s
  | .inBase => s.inBase
  | .outBase => s.outBase
  | .frames => BitVec.ofNat 32 s.par.n
  | .inCh => s.inCh.setWidth 32
  | .sampleRate => s.sampleRate
  | .bitDepth => s.bitDepth
  | .clkMult => s.clkMult
  | .pins => s.pins
  | .sclkOutEn => s.sclkOutEn.setWidth 32

/-- `reg <- DATA & wmask(reg)` (42_session.md R95); nothing for a register without storage. -/
def storeReg (reg : Reg) (data : Word) (s : State) : State :=
  match reg with
  | .ctrl => s
  | .status => s
  | .frames => s
  | .inBase => { s with inBase := data &&& wmask .inBase }
  | .outBase => { s with outBase := data &&& wmask .outBase }
  | .inCh => { s with inCh := (data &&& wmask .inCh).setWidth 4 }
  | .sampleRate => { s with sampleRate := data &&& wmask .sampleRate }
  | .bitDepth => { s with bitDepth := data &&& wmask .bitDepth }
  | .clkMult => { s with clkMult := data &&& wmask .clkMult }
  | .pins => { s with pins := data &&& wmask .pins }
  | .sclkOutEn => { s with sclkOutEn := (data &&& wmask .sclkOutEn).setWidth 1 }

/-- A LOCKED-RW write (10_state.md R27, 42_session.md R95). -/
def writeLocked (reg : Reg) (data : Word) (s : State) : Except RefuseReason State :=
  if s.active || s.cfgErr then .error .cfgLocked else .ok (storeReg reg data s)

/-- `cfg_valid` on the state's configuration registers (42_session.md R98). -/
def cfgValid (s : State) : Bool :=
  match s.par.cfgCheck with
  | .acceptAll => true
  | .rejectAll => false
  | .collaborator =>
    Config.cfgValid s.sampleRate s.bitDepth s.clkMult s.pins s.sclkOutEn s.inCh

/-- `start_ok()`, in exact integer arithmetic (42_session.md R98). -/
def startOk (s : State) : Bool :=
  decide (s.inBase.toNat % s.par.bufAlign = 0)
    && decide (s.outBase.toNat % s.par.bufAlign = 0)
    && decide (s.inBase.toNat + s.par.splitBytes ≤ 2 ^ 32)
    && decide (s.outBase.toNat + s.par.splitBytes ≤ 2 ^ 32)
    && (decide (s.inBase.toNat + s.par.splitBytes ≤ s.outBase.toNat)
      || decide (s.outBase.toNat + s.par.splitBytes ≤ s.inBase.toNat))
    && decide (s.inCh.toNat < s.par.numCh)
    && cfgValid s

/-- The pointer the collaborator shows while the transfer engine fills `filling`
(43_transfer_interface.md R107). -/
def ptrWhileFilling (filling : Half) (s : State) : Word :=
  match filling with
  | .half1 => s.inBase
  | .half0 => s.par.ptrAlt

/-- The synchronized start of the transfer engine (42_session.md R97); bench mode has none. -/
def startEngine (s : State) : State :=
  if s.par.bench then s
  else
    { s with
      teHalf := s.par.startHalf
      tePos := 0#16
      inPtr := ptrWhileFilling s.par.startHalf s }

/-- A START that passes validation (42_session.md R97). -/
def startStreaming (s : State) : State :=
  startEngine { s with active := true, cmplFlag := false, starts := s.starts + 1 }

/-- `START()` (42_session.md R97), its refusals in the order of 60_exceptions.md R117. -/
def start (s : State) : Except RefuseReason State :=
  if s.active || s.cfgErr then .error .startAgain
  else if !s.par.bench && decide (s.par.ptrAlt = s.inBase) then .error .ptrAlt
  else if startOk s then .ok (startStreaming s)
  else .ok { s with cfgErr := true }

/-- A register write by the register's access class (10_state.md R27, 42_session.md R95). -/
def writeReg (reg : Reg) (data : Word) (s : State) : Except RefuseReason State :=
  match reg with
  | .ctrl => if data.getLsbD 0 then start s else .ok s
  | .status => .ok s
  | .frames => .ok s
  | .inBase => writeLocked .inBase data s
  | .outBase => writeLocked .outBase data s
  | .inCh => writeLocked .inCh data s
  | .sampleRate => writeLocked .sampleRate data s
  | .bitDepth => writeLocked .bitDepth data s
  | .clkMult => writeLocked .clkMult data s
  | .pins => writeLocked .pins data s
  | .sclkOutEn => writeLocked .sclkOutEn data s

/-- `sel(p)`: exact equality with the base of input half 0 (41_arbiter.md R80). -/
def selectHalf (ptr : Word) (s : State) : Half := if ptr = s.inBase then .half0 else .half1

/-- Entry into the arbiter, the block's one interrupt (60_exceptions.md R121; 41_arbiter.md R82): nothing
is saved, the half is selected from the pointer, and control goes to phase XF(0). -/
def enterArbiter (s : State) : State :=
  { s with
    altBreak := altBreakAfter (selectHalf s.inPtr s) s
    sel := selectHalf s.inPtr s
    selValid := true
    busy := true
    idx := 0#16 }

/-- The mask on the port `ack` for a channel (30_encoding.md R69). -/
def ackMask (ch : BitVec 4) : Word := 1#32 <<< ch.toNat

/-- Return from the arbiter (60_exceptions.md R122; 41_arbiter.md R86): nothing is restored, the named
channel is acknowledged and its completion flag cleared. -/
def leaveArbiter (s : State) : State :=
  { s with
    acks := s.acks ++ [ackMask s.inCh]
    cmplFlag := false
    busy := false
    idx := 0#16 }

/-- The arbiter's phases (10_state.md R23). -/
inductive Phase where
  | idle
  | xf (i : Nat)
  | ackw
  deriving DecidableEq, Repr

/-- The phase, derived from BUSY and IDX (10_state.md R23); none for an IDX above N, which no run
reaches. -/
def phase (s : State) : Option Phase :=
  if s.busy then
    if s.idx.toNat < s.par.n then some (.xf s.idx.toNat)
    else if s.idx.toNat = s.par.n then some .ackw
    else none
  else some .idle

/-- The outcome of a step that has been taken: the monitor runs on its result (41_arbiter.md R87). -/
def taken (s : State) : Host.Outcome State Fault Refusal := .next (monitor s)

/-- The outcome of a refused request: a next state (00_scope.md R13). -/
def refusedStep (reason : RefuseReason) (s : State) : Host.Outcome State Fault Refusal :=
  .next (refuse reason s)

/-- The outcome of a request that may be refused. -/
def requestOutcome (s : State) : Except RefuseReason State → Host.Outcome State Fault Refusal
  | .ok t => taken t
  | .error reason => refusedStep reason s

/-- A label's words leave the schedule. -/
def takeLabels (rest : List Word) (s : State) : State := { s with labels := rest }

end Sys2Proof.Machine
end

