-- ==== Sys2Proof/Machine/Arbiter.lean ====
section
/-! DEFINITION. The ARB operations (41_arbiter.md R82, R83, R86). -/

namespace Sys2Proof.Machine

/-- When ARB_SAMPLE is enabled (41_arbiter.md R81). -/
def sampleEnabled (s : State) : Bool := s.active && !s.busy && s.cmplFlag

/-- When ARB_XFRAME `fidx` is enabled (41_arbiter.md R83). -/
def xframeEnabled (fidx : BitVec 16) (s : State) : Bool :=
  s.busy && decide (s.idx = fidx) && decide (fidx.toNat < s.par.n)

/-- When ARB_ACK is enabled (41_arbiter.md R86). -/
def ackEnabled (s : State) : Bool := s.busy && decide (s.idx.toNat = s.par.n)

/-- Frame `i` of half SEL through XFORM, from the input to the output (41_arbiter.md R83). -/
def transformFrame (i : Nat) (s : State) : State :=
  let fetched := readFrame s.inBase s.sel i s
  { writeFrame s.outBase s.sel i (xform s.par fetched.1) fetched.2 with idx := BitVec.ofNat 16 (i + 1) }

/-- ARB_SAMPLE (41_arbiter.md R82). -/
def execArbSample (s : State) : Host.Outcome State Fault Refusal :=
  if sampleEnabled s then taken (enterArbiter s) else .refused .notEnabled

/-- ARB_XFRAME (41_arbiter.md R83). -/
def execArbXframe (fidx : BitVec 16) (s : State) : Host.Outcome State Fault Refusal :=
  if xframeEnabled fidx s then taken (transformFrame fidx.toNat s)
  else .refused .notEnabled

/-- ARB_ACK (41_arbiter.md R86). -/
def execArbAck (s : State) : Host.Outcome State Fault Refusal :=
  if ackEnabled s then taken (leaveArbiter s) else .refused .notEnabled

end Sys2Proof.Machine
end

