-- ==== Sys2Proof/Machine/Bench.lean ====
section
/-! DEFINITION. The BENCH operations (43_transfer_interface.md R113, R114). -/

namespace Sys2Proof.Machine

/-- The reason a BENCH_LOAD is refused, if it is, in the order of 60_exceptions.md R117
(30_encoding.md R64, 43_transfer_interface.md R114). -/
def benchLoadRefusal (buf : Buf) (kidx : Word) (s : State) : Option RefuseReason :=
  if !s.par.bench then some .mode
  else if 4 * s.par.n ≤ kidx.toNat then some .benchRange
  else if 2 ^ 32 ≤ benchAddr (bufBase buf s) kidx then some .benchRange
  else if s.busy && decide (halfOfSample s.par kidx = s.sel.index) then some .benchOwned
  else none

/-- BENCH_LOAD (43_transfer_interface.md R114). -/
def execBenchLoad (buf : Buf) (kidx value : Word) (s : State) : Host.Outcome State Fault Refusal :=
  match benchLoadRefusal buf kidx s with
  | some reason => refusedStep reason s
  | none => taken (memWrite (benchAddr (bufBase buf s) kidx) value s)

/-- The reason a BENCH_RAISE is refused, if it is (30_encoding.md R64, 43_transfer_interface.md R113). -/
def benchRaiseRefusal (s : State) : Option RefuseReason :=
  if !s.par.bench then some .mode
  else if !s.active then some .notActive
  else none

/-- BENCH_RAISE (43_transfer_interface.md R113). -/
def execBenchRaise (ptr : Word) (s : State) : Host.Outcome State Fault Refusal :=
  match benchRaiseRefusal s with
  | some reason => refusedStep reason s
  | none => taken (raiseCompletion ptr s)

end Sys2Proof.Machine
end

