-- ==== Sys2Proof/Machine/Session.lean ====
section
/-! DEFINITION. The HOST operations (42_session.md R94, R95, R99). -/

namespace Sys2Proof.Machine

/-- HOST_IDLE (42_session.md R99). -/
def execHostIdle (s : State) : Host.Outcome State Fault Refusal := taken s

/-- REG_READ (42_session.md R94). -/
def execRegRead (widx : BitVec 8) (s : State) : Host.Outcome State Fault Refusal :=
  match regOperand widx with
  | none => refusedStep .regUnmapped s
  | some reg => taken { s with rd := s.rd ++ [readReg reg s] }

/-- REG_WRITE, and START through CTRL (42_session.md R95, R97). -/
def execRegWrite (widx : BitVec 8) (data : Word) (s : State) : Host.Outcome State Fault Refusal :=
  match regOperand widx with
  | none => refusedStep .regUnmapped s
  | some reg => requestOutcome s (writeReg reg data s)

end Sys2Proof.Machine
end

