-- ==== Sys2Proof/Machine/Transfer.lean ====
section
/-! DEFINITION. The reference transfer engine's operation (43_transfer_interface.md R108). -/

namespace Sys2Proof.Machine

/-- When TE_STEP is enabled, the mode being right (43_transfer_interface.md R108). -/
def teEnabled (s : State) : Bool := s.active

/-- The engine's position after a frame: the next frame of the half, or the other half and a completion
(43_transfer_interface.md R107, R108). -/
def advanceEngine (s : State) : State :=
  if s.tePos.toNat + 1 < s.par.n then { s with tePos := BitVec.ofNat 16 (s.tePos.toNat + 1) }
  else
    raiseCompletion (ptrWhileFilling s.teHalf.other s)
      { s with tePos := 0#16, teHalf := s.teHalf.other }

/-- One frame in and one frame out at the engine's position, then the advance
(43_transfer_interface.md R106, R108). -/
def moveFrame (received : Frame) (s : State) : State :=
  let sent := readFrame s.outBase s.teHalf s.tePos.toNat
    (writeFrame s.inBase s.teHalf s.tePos.toNat received s)
  advanceEngine { sent.2 with tx := s.tx ++ [sent.1] }

/-- TE_STEP (43_transfer_interface.md R108; the mode check of 30_encoding.md R64 comes first). -/
def execTeStep (rxl rxr : Word) (s : State) : Host.Outcome State Fault Refusal :=
  if s.par.bench then refusedStep .mode s
  else if teEnabled s then taken (moveFrame { l := rxl, r := rxr } s)
  else .refused .notEnabled

end Sys2Proof.Machine
end

