-- ==== Sys2Proof/Machine/Dispatch.lean ====
section
/-! DEFINITION. The one match from an operation to its meaning. -/

namespace Sys2Proof.Machine

def exec (i : Instr) (s : State) : Host.Outcome State Fault Refusal :=
  match i with
  | .hostIdle => Sys2Proof.Machine.execHostIdle s
  | .regRead widx => Sys2Proof.Machine.execRegRead widx s
  | .regWrite widx data => Sys2Proof.Machine.execRegWrite widx data s
  | .arbSample => Sys2Proof.Machine.execArbSample s
  | .arbXframe fidx => Sys2Proof.Machine.execArbXframe fidx s
  | .arbAck => Sys2Proof.Machine.execArbAck s
  | .teStep rxl rxr => Sys2Proof.Machine.execTeStep rxl rxr s
  | .benchLoad buf kidx value => Sys2Proof.Machine.execBenchLoad buf kidx value s
  | .benchRaise ptr => Sys2Proof.Machine.execBenchRaise ptr s

end Sys2Proof.Machine
end

