-- ==== Sys2Proof/Machine/Step.lean ====
section
/-! DEFINITION. One step: the next label of the schedule is taken and run (00_scope.md R6, R7; 30_encoding.md R60, R61; log entry 5). -/

namespace Sys2Proof.Machine

/-- One step of the machine. An invalid header takes one word and is refused RF_ILLEGAL_LABEL
(30_encoding.md R61). -/
def step (s : State) : Host.Outcome State Fault Refusal :=
  match decode s.labels with
  | .label i rest => exec i (takeLabels rest s)
  | .invalid _ rest => refusedStep .illegalLabel (takeLabels rest s)
  | .truncated => .refused .truncatedLabel
  | .empty => .refused .noLabel

/-- `s` with one label, given as opcode_table.json numbers its bits, placed where `step` takes its next
label: at the front of the schedule. -/
def State.withFetchWord (s : State) (nbits w : Nat) : State :=
  { s with labels := tableLabel nbits w ++ s.labels }

end Sys2Proof.Machine
end

