-- ==== Sys2Proof/Machine/Ports.lean ====
section
/-! DEFINITION. The ports of 43_transfer_interface.md R102 as views of the state; `ack`, `start`, `mem` and `regs` carry events of steps (ACKS, `starts`, and the operations of Ops.lean). -/

namespace Sys2Proof.Machine

/-- What the PPCA drives on the port `cfg` (43_transfer_interface.md R102): the LOCKED-RW registers. -/
structure CfgPort where
  inBase : Word
  outBase : Word
  inCh : BitVec 4
  sampleRate : Word
  bitDepth : Word
  clkMult : Word
  pins : Word
  sclkOutEn : BitVec 1
  deriving DecidableEq, Repr

/-- The port `cfg`. -/
def portCfg (s : State) : CfgPort where
  inBase := s.inBase
  outBase := s.outBase
  inCh := s.inCh
  sampleRate := s.sampleRate
  bitDepth := s.bitDepth
  clkMult := s.clkMult
  pins := s.pins
  sclkOutEn := s.sclkOutEn

/-- The port `cmpl`. -/
def portCmpl (s : State) : Bool := s.cmplFlag

/-- The port `in_ptr`; reading it has no side effect (43_transfer_interface.md R104). -/
def portInPtr (s : State) : Word := s.inPtr

/-- The port `cfg_ok`. -/
def portCfgOk (s : State) : Bool := cfgValid s

/-- Whether an acknowledge with mask `m` clears channel `ch`'s completion flag
(43_transfer_interface.md R105). -/
def ackClears (m : Word) (ch : BitVec 4) : Bool := m.getLsbD ch.toNat

end Sys2Proof.Machine
end

