-- ==== Sys2Proof/Machine/Runs.lean ====
section
/-! DEFINITION. Infinite runs, the steps that exist in a state, and fairness (00_scope.md R7, R13; 70_reset_and_hazards.md R142, R143). A run is a pair of sequences beside State, which stays plain data; its finite prefixes are runs of `step` from reset. -/

namespace Sys2Proof.Machine

/-- The steps that exist in a state (00_scope.md R13): every HOST and BENCH request, an ARB step when its
condition holds, and a TE label in the wrong mode (which is refused) or when its condition holds. -/
def stepExists (i : Instr) (s : State) : Bool :=
  match i with
  | .hostIdle => true
  | .regRead _ => true
  | .regWrite _ _ => true
  | .arbSample => sampleEnabled s
  | .arbXframe fidx => xframeEnabled fidx s
  | .arbAck => ackEnabled s
  | .teStep _ _ => s.par.bench || teEnabled s
  | .benchLoad _ _ _ => true
  | .benchRaise _ => true

/-- What a scheduler takes at one point of a run: a label, or a header that no row accepts
(30_encoding.md R61). -/
inductive Request where
  | label (i : Instr)
  | illegal
  deriving DecidableEq, Repr

/-- The outcome of a request. -/
def takeStep (r : Request) (s : State) : Host.Outcome State Fault Refusal :=
  match r with
  | .label i => exec i s
  | .illegal => refusedStep .illegalLabel s

/-- A request as words of the schedule; for an invalid header, one of a reserved OP (30_encoding.md
R63). -/
def requestWords (r : Request) : List Word :=
  match r with
  | .label i => encode i
  | .illegal => [0x03000000#32]

/-- The words of the first `k` requests of a run. -/
def wordsBefore (req : Nat → Request) (k : Nat) : List Word :=
  (List.range k).flatMap fun m => requestWords (req m)

/-- An infinite run from reset: no run ends (70_reset_and_hazards.md R143). `req` is the schedule and
`st` the states between its steps. -/
def IsRun (p : Params) (req : Nat → Request) (st : Nat → State) : Prop :=
  st 0 = State.resetFor p ∧ ∀ k, takeStep (req k) (st k) = .next (st (k + 1))

/-- Weak fairness for ARB (70_reset_and_hazards.md R142): an ARB step that stays enabled is eventually
taken. -/
def ArbFair (req : Nat → Request) (st : Nat → State) : Prop :=
  ∀ i : Instr, i.agent = .arb → ∀ k, (∀ m, k ≤ m → stepExists i (st m) = true) →
    ∃ m, k ≤ m ∧ req m = .label i

/-- Fairness for TE (70_reset_and_hazards.md R142): while ACTIVE = 1 and BENCH = false, TE takes
infinitely many steps. -/
def TeFair (req : Nat → Request) (st : Nat → State) : Prop :=
  ∀ k, (st k).par.bench = false → (st k).active = true →
    ∃ m, k ≤ m ∧ ∃ rxl rxr, req m = .label (.teStep rxl rxr)

end Sys2Proof.Machine
end

