-- ==== Sys2Proof/Safety.lean ====
section
/-! DEFINITION. What claims are stated in: the premise DEADLINE_MET, the conditions of START in integers, the invariants of the machine, and runs of labels (70_reset_and_hazards.md R141; 42_session.md R98; 30_encoding.md R71). -/

namespace Sys2Proof.Machine

/-- DEADLINE_MET (70_reset_and_hazards.md R141), of one state of a run. -/
abbrev DeadlineMet (s : State) : Prop := s.refused = false ∧ s.evtLost = false

/-- The conditions of `start_ok()` as 42_session.md R98 lists them. -/
abbrev StartConditions (s : State) : Prop :=
  s.inBase.toNat % s.par.bufAlign = 0
    ∧ s.outBase.toNat % s.par.bufAlign = 0
    ∧ s.inBase.toNat + 16 * s.par.n ≤ 2 ^ 32
    ∧ s.outBase.toNat + 16 * s.par.n ≤ 2 ^ 32
    ∧ (s.inBase.toNat + 16 * s.par.n ≤ s.outBase.toNat
      ∨ s.outBase.toNat + 16 * s.par.n ≤ s.inBase.toNat)
    ∧ s.inCh.toNat < s.par.numCh
    ∧ cfgValid s = true

/-- Memory is in its canonical form. -/
abbrev MemoryInv (s : State) : Prop := Memory.wf s.mem = true

/-- The arbiter's control state (10_state.md R18, R22, R23; 41_arbiter.md R88). -/
abbrev ArbiterInv (s : State) : Prop :=
  (s.busy = true → s.cmplFlag = true ∧ s.selValid = true)
    ∧ (s.cmplFlag = true → s.active = true)
    ∧ (s.selValid = true → s.active = true)
    ∧ s.idx.toNat ≤ s.par.n
    ∧ (s.busy = false → s.idx = 0#16)

/-- What a session that streams was started with, and that it was started once (42_session.md R97, R98,
R101; 43_transfer_interface.md R102). -/
abbrev SessionInv (s : State) : Prop :=
  (s.active = true → s.cfgErr = false ∧ StartConditions s
      ∧ (s.par.bench = false → s.par.ptrAlt ≠ s.inBase))
    ∧ s.starts = (if s.active then 1 else 0)

/-- The transfer engine's position (10_state.md R26) and the pointer contract
(43_transfer_interface.md R107). -/
abbrev EngineInv (s : State) : Prop :=
  s.tePos.toNat < s.par.n
    ∧ (s.active = true → s.par.bench = false →
        (s.teHalf = .half1 → s.inPtr = s.inBase) ∧ (s.teHalf = .half0 → s.inPtr = s.par.ptrAlt))

/-- The ownership monitor has been evaluated on the state (41_arbiter.md R87). -/
abbrev MonitorSettled (s : State) : Prop :=
  s.par.bench = false → s.active = true → s.busy = true → s.sel = s.teHalf → s.ownViol = true

/-- With the transfer engine present and no event lost, no violation and no alternation break are
recorded; and the last selection is the engine's half exactly while a new completion waits
(41_arbiter.md R91; 70_reset_and_hazards.md R141). -/
abbrev CleanInv (s : State) : Prop :=
  s.par.bench = false → s.evtLost = false →
    s.ownViol = false ∧ s.altBreak = false
      ∧ (s.selValid = true → (s.sel = s.teHalf ↔ s.busy = false ∧ s.cmplFlag = true))

/-- In bench mode the monitor is inactive and nothing is transmitted (43_transfer_interface.md R112). -/
abbrev BenchInv (s : State) : Prop := s.par.bench = true → s.ownViol = false ∧ s.tx = []

/-- The refusal mark and the reason go together (10_state.md R34). -/
abbrev RefusalInv (s : State) : Prop := s.refused = false ↔ s.refuseReason = none

/-- Everything above. -/
abbrev SafetyInv (s : State) : Prop :=
  MemoryInv s ∧ ArbiterInv s ∧ SessionInv s ∧ EngineInv s ∧ MonitorSettled s ∧ CleanInv s
    ∧ BenchInv s ∧ RefusalInv s

/-- A list of labels taken one after the other. -/
def execAll : List Instr → State → Host.Outcome State Fault Refusal
  | [], s => .next s
  | i :: is, s =>
    match exec i s with
    | .next t => execAll is t
    | .fault e => .fault e
    | .refused r => .refused r

/-- The labels `arb.xframe 0` to `arb.xframe n-1`. -/
def xframeRun (n : Nat) : List Instr :=
  (List.range n).map fun i => .arbXframe (BitVec.ofNat 16 i)

/-- The pseudo-operation `arb.run` (30_encoding.md R71). -/
def arbRun (n : Nat) : List Instr := .arbSample :: (xframeRun n ++ [.arbAck])

/-- The frame a label receives from the serial interface, if it is a TE_STEP. -/
def receivedFrame : Instr → Option Frame
  | .hostIdle => none
  | .regRead _ => none
  | .regWrite _ _ => none
  | .arbSample => none
  | .arbXframe _ => none
  | .arbAck => none
  | .teStep rxl rxr => some { l := rxl, r := rxr }
  | .benchLoad _ _ _ => none
  | .benchRaise _ => none

/-- The frames a list of labels receives, in order. -/
def received (is : List Instr) : List Frame := is.filterMap receivedFrame

/-- The ghost flags at 0, every other field as it is (10_state.md R33). -/
def withoutGhosts (s : State) : State :=
  { s with ownViol := false, evtLost := false, altBreak := false }

end Sys2Proof.Machine
end

