-- ==== Sys2Proof/Certificates/Slice0/Obligations.lean ====
section
/-! DEFINITION. The statements about the PPCA model, from the numbered rules of spec/. A next state is written as the state with its changed fields, followed by the monitor of 41_arbiter.md R87; a refusal by `refuse`. -/

open Sys2Proof Sys2Proof.Machine

/-! ## Reset -/

/-- 10_state.md R37: every element's reset value, for every set of parameters. IN_PTR is the element R37
leaves unspecified; nothing is said of it. -/
def Obligations.ResetValuesAreTheTable : Prop :=
  State.reset = State.resetFor Config.params ∧
  ∀ p : Params,
    (State.resetFor p).par = p
    ∧ (State.resetFor p).active = false ∧ (State.resetFor p).cfgErr = false
    ∧ (State.resetFor p).busy = false ∧ (State.resetFor p).sel = .half0
    ∧ (State.resetFor p).selValid = false ∧ (State.resetFor p).idx = 0#16
    ∧ (State.resetFor p).cmplFlag = false
    ∧ (State.resetFor p).teHalf = .half0 ∧ (State.resetFor p).tePos = 0#16
    ∧ (State.resetFor p).inBase = 0#32 ∧ (State.resetFor p).outBase = 0#32
    ∧ (State.resetFor p).inCh = 0#4 ∧ (State.resetFor p).sampleRate = 0#32
    ∧ (State.resetFor p).bitDepth = 0#32 ∧ (State.resetFor p).clkMult = 0#32
    ∧ (State.resetFor p).pins = 0#32 ∧ (State.resetFor p).sclkOutEn = 0#1
    ∧ (readReg .frames (State.resetFor p)).toNat = p.n
    ∧ (∀ a, (State.resetFor p).byteAt a = none)
    ∧ (State.resetFor p).ownViol = false ∧ (State.resetFor p).evtLost = false
    ∧ (State.resetFor p).altBreak = false ∧ (State.resetFor p).refused = false
    ∧ (State.resetFor p).refuseReason = none
    ∧ (State.resetFor p).tx = [] ∧ (State.resetFor p).rd = []

/-- 70_reset_and_hazards.md R132: after reset no ARB or TE step is enabled, a raise is refused, and HOST
can act. -/
def Obligations.ResetEnablesNoArbiterOrEngineStep : Prop :=
  ∀ (p : Params) (ls : List Word) (fidx : BitVec 16) (rxl rxr ptr : Word),
    exec .arbSample { State.resetFor p with labels := ls } = .refused .notEnabled
    ∧ exec (.arbXframe fidx) { State.resetFor p with labels := ls } = .refused .notEnabled
    ∧ exec .arbAck { State.resetFor p with labels := ls } = .refused .notEnabled
    ∧ (p.bench = false →
        exec (.teStep rxl rxr) { State.resetFor p with labels := ls } = .refused .notEnabled)
    ∧ (p.bench = true → exec (.benchRaise ptr) { State.resetFor p with labels := ls }
        = .next (refuse .notActive { State.resetFor p with labels := ls }))
    ∧ exec .hostIdle { State.resetFor p with labels := ls }
        = .next { State.resetFor p with labels := ls }

/-- Every invariant of Safety.lean holds at reset, whatever the parameters and the schedule. IN_PTR's and
the port counters' reset values are the model's (log entries 4 and 12). -/
def Obligations.SafetyInvariantHoldsAtReset : Prop :=
  ∀ (p : Params) (ls : List Word), SafetyInv { State.resetFor p with labels := ls }

/-! ## Labels -/

/-- 30_encoding.md R65: the worked encodings, and the two invalid headers. -/
def Obligations.WorkedEncodingsDecode : Prop :=
  decode [0x01000001#32] = .label (.regRead 1#8) []
  ∧ decode [0x02000002#32, 0x20000000#32] = .label (.regWrite 2#8 0x20000000#32) []
  ∧ decode [0x02000000#32, 0x00000001#32] = .label (.regWrite 0#8 1#32) []
  ∧ decode [0x10000000#32] = .label .arbSample []
  ∧ decode [0x11000003#32] = .label (.arbXframe 3#16) []
  ∧ decode [0x12000000#32] = .label .arbAck []
  ∧ decode [0x20000000#32, 0x00010000#32, 0x00020000#32]
      = .label (.teStep 0x00010000#32 0x00020000#32) []
  ∧ decode [0x30000001#32, 0x00000005#32, 0x00001234#32]
      = .label (.benchLoad .output 5#32 0x1234#32) []
  ∧ decode [0x31000000#32, 0x20000000#32] = .label (.benchRaise 0x20000000#32) []
  ∧ decode [0x11010000#32] = .invalid .reservedOperand []
  ∧ decode [0x13000000#32] = .invalid .reservedOp []

/-- Decoding an encoded operation, whatever follows it, gives the operation back: no operand bit is
dropped and no word is taken too many or too few (30_encoding.md R57–R60). -/
def Obligations.DecodeOfEncodeIsIdentity : Prop :=
  ∀ (i : Instr) (rest : List Word), decode (encode i ++ rest) = .label i rest

/-- The other direction: a decoded label's words are exactly its encoding, so every word has one meaning
(30_encoding.md R61, R62). -/
def Obligations.DecodedWordsAreTheEncoding : Prop :=
  ∀ (ws : List Word) (i : Instr) (rest : List Word),
    decode ws = .label i rest → ws = encode i ++ rest

/-- 30_encoding.md R61: a header is valid exactly when a row of the opcode table accepts it, and no two
rows accept one header. -/
def Obligations.HeaderIsValidExactlyWhenOneRowAccepts : Prop :=
  (∀ h : Word, (∃ head, decodeHeader h = .ok head) ↔ headerWellFormed h = true)
  ∧ opcodeRows.Pairwise fun a b => ∀ h : Word, ¬ (a.accepts h = true ∧ b.accepts h = true)

/-- 30_encoding.md R60: the length of a label is fixed by its operation, and an invalid header takes one
word. -/
def Obligations.LabelLengthsAreFixedByOperation : Prop :=
  (encode .hostIdle).length = 1
  ∧ (∀ w, (encode (.regRead w)).length = 1)
  ∧ (∀ w d, (encode (.regWrite w d)).length = 2)
  ∧ (encode .arbSample).length = 1
  ∧ (∀ f, (encode (.arbXframe f)).length = 1)
  ∧ (encode .arbAck).length = 1
  ∧ (∀ l r, (encode (.teStep l r)).length = 3)
  ∧ (∀ b k v, (encode (.benchLoad b k v)).length = 3)
  ∧ (∀ p, (encode (.benchRaise p)).length = 2)
  ∧ (∀ (h : Word) (ws : List Word) (i : Instr) (rest : List Word),
      decode (h :: ws) = .label i rest →
        (encode i).length = labelLength h ∧ (h :: ws).length = labelLength h + rest.length)
  ∧ (∀ (h : Word) (ws : List Word) (why : DecodeError) (rest : List Word),
      decode (h :: ws) = .invalid why rest → labelLength h = 1 ∧ rest = ws)

/-- A step runs the decoded label, with its words taken from the schedule; an invalid header takes one
word and is refused RF_ILLEGAL_LABEL (30_encoding.md R61); a schedule that is empty or ends inside a
label gives no step (log entry 5). -/
def Obligations.StepRunsTheDecodedLabel : Prop :=
  ∀ s : State,
    (∀ i rest, decode s.labels = .label i rest → step s = exec i { s with labels := rest })
    ∧ (∀ h rest, s.labels = h :: rest → headerWellFormed h = false →
        step s = .next (refuse .illegalLabel { s with labels := rest }))
    ∧ (s.labels = [] → step s = .refused .noLabel)
    ∧ (decode s.labels = .truncated → step s = .refused .truncatedLabel)

/-! ## HOST -/

/-- 42_session.md R99: HOST_IDLE writes no state. The monitor's flag can move only in a state on which
the monitor has not yet been evaluated, which no step leaves. -/
def Obligations.HostIdleLeavesTheStateUnchanged : Prop :=
  encode .hostIdle = [0x00000000#32] ∧ ∀ s : State,
    (MonitorSettled s → exec .hostIdle s = .next s)
    ∧ exec .hostIdle s = .next { s with
        ownViol := s.ownViol
          || (!s.par.bench && s.active && s.busy && decide (s.sel = s.teHalf)) }

/-- 42_session.md R94: the value a REG_READ appends to RD for each of the eleven registers, and the
refusal of every other offset. -/
def Obligations.RegReadAppendsTheRegister : Prop :=
  (∀ widx : BitVec 8, encode (.regRead widx) = [0x01000000#32 ||| widx.setWidth 32])
  ∧ ∀ s : State,
    exec (.regRead 0#8) s = .next (monitor { s with rd := s.rd ++ [0#32] })
    ∧ exec (.regRead 1#8) s = .next (monitor { s with rd := s.rd ++ [statusWord s] })
    ∧ exec (.regRead 2#8) s = .next (monitor { s with rd := s.rd ++ [s.inBase] })
    ∧ exec (.regRead 3#8) s = .next (monitor { s with rd := s.rd ++ [s.outBase] })
    ∧ exec (.regRead 4#8) s = .next (monitor { s with rd := s.rd ++ [BitVec.ofNat 32 s.par.n] })
    ∧ exec (.regRead 5#8) s = .next (monitor { s with rd := s.rd ++ [s.inCh.setWidth 32] })
    ∧ exec (.regRead 6#8) s = .next (monitor { s with rd := s.rd ++ [s.sampleRate] })
    ∧ exec (.regRead 7#8) s = .next (monitor { s with rd := s.rd ++ [s.bitDepth] })
    ∧ exec (.regRead 8#8) s = .next (monitor { s with rd := s.rd ++ [s.clkMult] })
    ∧ exec (.regRead 9#8) s = .next (monitor { s with rd := s.rd ++ [s.pins] })
    ∧ exec (.regRead 10#8) s = .next (monitor { s with rd := s.rd ++ [s.sclkOutEn.setWidth 32] })
    ∧ ∀ widx : BitVec 8, 11 ≤ widx.toNat →
        exec (.regRead widx) s = .next (refuse .regUnmapped s)

/-- 42_session.md R96: the STATUS word, bit by bit. -/
def Obligations.StatusWordShowsTheFlags : Prop :=
  ∀ s : State,
    (statusWord s).getLsbD 0 = s.active
    ∧ (statusWord s).getLsbD 1 = s.busy
    ∧ (statusWord s).getLsbD 2 = decide (s.sel = .half1)
    ∧ (statusWord s).getLsbD 3 = s.selValid
    ∧ (statusWord s).getLsbD 4 = s.cfgErr
    ∧ (statusWord s).getLsbD 5 = s.cmplFlag
    ∧ ∀ i, 6 ≤ i → (statusWord s).getLsbD i = false

/-- 42_session.md R95: what a REG_WRITE does for each register and each state of the lock. -/
def Obligations.RegWriteFollowsTheAccessClass : Prop :=
  (∀ (widx : BitVec 8) (data : Word),
    encode (.regWrite widx data) = [0x02000000#32 ||| widx.setWidth 32, data])
  ∧ ∀ (s : State) (data : Word),
    (s.active = false → s.cfgErr = false →
      exec (.regWrite 2#8 data) s = .next (monitor { s with inBase := data })
      ∧ exec (.regWrite 3#8 data) s = .next (monitor { s with outBase := data })
      ∧ exec (.regWrite 5#8 data) s = .next (monitor { s with inCh := data.setWidth 4 })
      ∧ exec (.regWrite 6#8 data) s = .next (monitor { s with sampleRate := data })
      ∧ exec (.regWrite 7#8 data) s = .next (monitor { s with bitDepth := data })
      ∧ exec (.regWrite 8#8 data) s = .next (monitor { s with clkMult := data })
      ∧ exec (.regWrite 9#8 data) s = .next (monitor { s with pins := data })
      ∧ exec (.regWrite 10#8 data) s = .next (monitor { s with sclkOutEn := data.setWidth 1 }))
    ∧ (s.active = true ∨ s.cfgErr = true →
      ∀ widx ∈ [2#8, 3#8, 5#8, 6#8, 7#8, 8#8, 9#8, 10#8],
        exec (.regWrite widx data) s = .next (refuse .cfgLocked s))
    ∧ exec (.regWrite 1#8 data) s = .next (monitor s)
    ∧ exec (.regWrite 4#8 data) s = .next (monitor s)
    ∧ (data.getLsbD 0 = false → exec (.regWrite 0#8 data) s = .next (monitor s))
    ∧ (data.getLsbD 0 = true →
        exec (.regWrite 0#8 data) s = requestOutcome s (start s))
    ∧ ∀ widx : BitVec 8, 11 ≤ widx.toNat →
        exec (.regWrite widx data) s = .next (refuse .regUnmapped s)

/-- 70_reset_and_hazards.md R139: a LOCKED-RW write before START takes effect at once: the next REG_READ
of the register appends the value stored, with the reserved bits 0. -/
def Obligations.ConfigurationWriteIsReadBack : Prop :=
  ∀ (s t : State) (data : Word) (widx : BitVec 8), s.active = false → s.cfgErr = false →
    widx ∈ [2#8, 3#8, 5#8, 6#8, 7#8, 8#8, 9#8, 10#8] →
    exec (.regWrite widx data) s = .next t →
    ∃ u, exec (.regRead widx) t = .next u
      ∧ u.rd = s.rd ++ [data &&& (if widx = 5#8 then 0x0000000F#32
          else if widx = 10#8 then 0x00000001#32 else 0xFFFFFFFF#32)]

/-- 42_session.md R98: `start_ok()` is exactly its list of conditions. -/
def Obligations.StartValidationIsTheList : Prop :=
  ∀ s : State, startOk s = true ↔ StartConditions s

/-- 42_session.md R97: START by its cases: refused, failed, streaming in bench mode, streaming with the
transfer engine. A START that succeeds also counts one event on the port `start` of
43_transfer_interface.md R102; the counter is the model's own (log entry 12). -/
def Obligations.StartFollowsItsCases : Prop :=
  encode (.regWrite 0#8 1#32) = [0x02000000#32, 0x00000001#32]
  ∧ ∀ (s : State) (data : Word), data.getLsbD 0 = true →
    (s.active = true ∨ s.cfgErr = true →
      exec (.regWrite 0#8 data) s = .next (refuse .startAgain s))
    ∧ (s.active = false → s.cfgErr = false → s.par.bench = false → s.par.ptrAlt = s.inBase →
      exec (.regWrite 0#8 data) s = .next (refuse .ptrAlt s))
    ∧ (s.active = false → s.cfgErr = false → (s.par.bench = false → s.par.ptrAlt ≠ s.inBase) →
      ¬ StartConditions s →
      exec (.regWrite 0#8 data) s = .next (monitor { s with cfgErr := true }))
    ∧ (s.active = false → s.cfgErr = false → s.par.bench = true → StartConditions s →
      exec (.regWrite 0#8 data) s
        = .next (monitor { s with active := true, cmplFlag := false, starts := s.starts + 1 }))
    ∧ (s.active = false → s.cfgErr = false → s.par.bench = false → s.par.ptrAlt ≠ s.inBase →
      StartConditions s →
      exec (.regWrite 0#8 data) s = .next (monitor { s with
        active := true
        cmplFlag := false
        starts := s.starts + 1
        teHalf := s.par.startHalf
        tePos := 0#16
        inPtr := if s.par.startHalf = .half1 then s.inBase else s.par.ptrAlt }))

/-! ## ARB -/

/-- 41_arbiter.md R80, R82: ARB_SAMPLE selects half 0 exactly when the pointer equals the base of input
half 0, records the selection, and enters; it exists only for an idle arbiter with a pending completion. -/
def Obligations.ArbSampleSelectsByThePointer : Prop :=
  encode .arbSample = [0x10000000#32]
  ∧ (∀ s : State, ¬ (s.active = true ∧ s.busy = false ∧ s.cmplFlag = true) →
    exec .arbSample s = .refused .notEnabled)
  ∧ ∀ s : State, s.active = true → s.busy = false → s.cmplFlag = true →
    (s.inPtr = s.inBase → exec .arbSample s = .next (monitor { s with
      altBreak := s.altBreak || (s.selValid && decide (s.sel = .half0))
      sel := .half0
      selValid := true
      busy := true
      idx := 0#16 }))
    ∧ (s.inPtr ≠ s.inBase → exec .arbSample s = .next (monitor { s with
      altBreak := s.altBreak || (s.selValid && decide (s.sel = .half1))
      sel := .half1
      selValid := true
      busy := true
      idx := 0#16 }))

/-- 41_arbiter.md R83: ARB_XFRAME writes output frame i of half SEL with the transform of input frame i
(an unwritten sample is a draw, of which nothing is said), advances IDX, and changes nothing else: every
byte outside the frame's eight bytes reads as before. It exists only in phase XF(i). -/
def Obligations.ArbXframeTransformsItsFrame : Prop :=
  (∀ fidx : BitVec 16, encode (.arbXframe fidx) = [0x11000000#32 ||| fidx.setWidth 32])
  ∧ (∀ (s : State) (fidx : BitVec 16), ¬ (s.busy = true ∧ s.idx = fidx ∧ fidx.toNat < s.par.n) →
    exec (.arbXframe fidx) s = .refused .notEnabled)
  ∧ ∀ (s : State) (fidx : BitVec 16), s.busy = true → s.idx = fidx → fidx.toNat < s.par.n →
    saddr s.par s.inBase s.sel fidx.toNat 1 + 4 ≤ 2 ^ 32 →
    saddr s.par s.outBase s.sel fidx.toNat 1 + 4 ≤ 2 ^ 32 →
    ∃ (t : State) (f : Frame), exec (.arbXframe fidx) s = .next t
      ∧ (∀ l, s.wordAt (saddr s.par s.inBase s.sel fidx.toNat 0) = some l → f.l = l)
      ∧ (∀ r, s.wordAt (saddr s.par s.inBase s.sel fidx.toNat 1) = some r → f.r = r)
      ∧ t.frameAt s.outBase s.sel fidx.toNat = some (xform s.par f)
      ∧ t.idx.toNat = fidx.toNat + 1
      ∧ (∀ a, (a < saddr s.par s.outBase s.sel fidx.toNat 0
            ∨ saddr s.par s.outBase s.sel fidx.toNat 0 + 8 ≤ a) → t.byteAt a = s.byteAt a)
      ∧ t.ownViol = (s.ownViol || ownViolNow s)
      ∧ t = { s with mem := t.mem, draws := t.draws, idx := t.idx, ownViol := t.ownViol }

/-- 41_arbiter.md R86: ARB_ACK sends the mask of channel IN_CH, clears the completion, and returns; it
exists only after the last frame. -/
def Obligations.ArbAckAcknowledgesAndReturns : Prop :=
  encode .arbAck = [0x12000000#32]
  ∧ (∀ s : State, ¬ (s.busy = true ∧ s.idx.toNat = s.par.n) → exec .arbAck s = .refused .notEnabled)
  ∧ ∀ s : State, s.busy = true → s.idx.toNat = s.par.n →
    exec .arbAck s = .next (monitor { s with
      acks := s.acks ++ [1#32 <<< s.inCh.toNat]
      cmplFlag := false
      busy := false
      idx := 0#16 })

/-- 43_transfer_interface.md R105: the acknowledge of a channel clears that channel's flag and no
other's. The mask form is the spec's own from general knowledge (log entry 12). -/
def Obligations.AcknowledgeNamesOneChannel : Prop :=
  ∀ ch other : BitVec 4, ackClears (ackMask ch) other = true ↔ other = ch

/-- 00_scope.md R13 with 41_arbiter.md R81, R83, R86 and 43_transfer_interface.md R108: an ARB or TE step
does not exist in a state exactly when its condition is false there. -/
def Obligations.AutonomousStepsExistExactlyWhenEnabled : Prop :=
  ∀ (s : State) (fidx : BitVec 16) (rxl rxr : Word),
    (exec .arbSample s = .refused .notEnabled ↔
      ¬ (s.active = true ∧ s.busy = false ∧ s.cmplFlag = true))
    ∧ (exec (.arbXframe fidx) s = .refused .notEnabled ↔
      ¬ (s.busy = true ∧ s.idx = fidx ∧ fidx.toNat < s.par.n))
    ∧ (exec .arbAck s = .refused .notEnabled ↔ ¬ (s.busy = true ∧ s.idx.toNat = s.par.n))
    ∧ (exec (.teStep rxl rxr) s = .refused .notEnabled ↔
      (s.par.bench = false ∧ s.active = false))

/-- 10_state.md R23 and 41_arbiter.md R89: the arbiter's fixed sequence. A sample leads to XF(0), a frame
to the next frame or to ACKW, an acknowledge to IDLE; and after an acknowledge neither a second
acknowledge nor a sample exists until the next completion. -/
def Obligations.ArbiterPhasesFollowTheSequence : Prop :=
  (∀ s t : State, exec .arbSample s = .next t → phase s = some .idle ∧ phase t = some (.xf 0))
  ∧ (∀ (s t : State) (fidx : BitVec 16), exec (.arbXframe fidx) s = .next t →
      phase s = some (.xf fidx.toNat)
      ∧ phase t = some (if fidx.toNat + 1 < s.par.n then .xf (fidx.toNat + 1) else .ackw))
  ∧ (∀ s t : State, exec .arbAck s = .next t →
      phase s = some .ackw ∧ phase t = some .idle
      ∧ t.acks.length = s.acks.length + 1
      ∧ exec .arbAck t = .refused .notEnabled ∧ exec .arbSample t = .refused .notEnabled)

/-- 41_arbiter.md R92, case a, and R91: with the transfer engine, a sample that comes before the next
completion selects the half the engine has left, however late it is. -/
def Obligations.SampleSelectsTheCompletedHalf : Prop :=
  ∀ s : State, SessionInv s → EngineInv s → s.par.bench = false → s.active = true →
    s.busy = false → s.cmplFlag = true →
    ∃ t, exec .arbSample s = .next t ∧ t.sel = s.teHalf.other ∧ t.selValid = true
      ∧ t.busy = true ∧ t.idx = 0#16 ∧ t.ownViol = s.ownViol

/-- 40_transform.md R78, 41_arbiter.md R85, R86, R89, R90: from a state with a pending completion, the
labels of `arb.run` take one whole event. Every frame of the selected output half is then the transform of
the input frame (where that is written; otherwise of draws), every byte outside that half is as before, the
completion is acknowledged once, as the trace `acks` records (log entry 12), and the arbiter is idle. -/
def Obligations.ArbRunTransformsTheSelectedHalf : Prop :=
  ∀ (s : State) (h : Half), SessionInv s → s.active = true → s.busy = false → s.cmplFlag = true →
    h = (if s.inPtr = s.inBase then .half0 else .half1) →
    ∃ t, execAll (arbRun s.par.n) s = .next t
      ∧ (∀ i f, i < s.par.n → s.frameAt s.inBase h i = some f →
          t.frameAt s.outBase h i = some (xform s.par f))
      ∧ (∀ a, ¬ inHalf s.par s.outBase h a → t.byteAt a = s.byteAt a)
      ∧ t.acks = s.acks ++ [1#32 <<< s.inCh.toNat]
      ∧ t.sel = h ∧ t.selValid = true ∧ t.busy = false ∧ t.cmplFlag = false ∧ t.idx = 0#16

/-! ## The transform -/

/-- 40_transform.md R73, R75: the reference transform acts lane by lane and clears the low 16 bits; it is
XFORM where the parameters name it. -/
def Obligations.ReferenceTransformActsLaneByLane : Prop :=
  (∀ l r : Word, xformRef { l := l, r := r }
      = { l := l &&& 0xFFFF0000#32, r := r &&& 0xFFFF0000#32 })
  ∧ (∀ (p : Params) (f : Frame), p.transform = .reference → xform p f = xformRef f)

/-- 40_transform.md R74: the seven laws of `trunc16`. -/
def Obligations.TruncationLaws : Prop :=
  (∀ s : Word, trunc16 s = (s.sshiftRight 16) <<< 16)
  ∧ (∀ s : Word, (trunc16 s).toInt = s.toInt - ((s.extractLsb' 0 16).toNat : Int)
      ∧ (trunc16 s).toInt = 65536 * (s.toInt / 65536))
  ∧ (∀ s : Word, -2 ^ 31 ≤ (trunc16 s).toInt ∧ (trunc16 s).toInt ≤ 2 ^ 31 - 65536
      ∧ (s.toInt % 65536 = 0 → trunc16 s = s))
  ∧ (∀ s : Word, (trunc16 s).getLsbD 31 = s.getLsbD 31
      ∧ ((trunc16 s).toInt < 0 ↔ s.toInt < 0)
      ∧ (0 ≤ s.toInt → s.toInt ≤ 65535 → trunc16 s = 0#32))
  ∧ (∀ s : Word, trunc16 (trunc16 s) = trunc16 s)
  ∧ (∀ a b : Word, a.toInt ≤ b.toInt → (trunc16 a).toInt ≤ (trunc16 b).toInt)
  ∧ (∀ s : Word, (trunc16 s).extractLsb' 16 16 = s.extractLsb' 16 16)

/-- 40_transform.md R79: the transform of a frame does not depend on the collaborator's configuration:
with any values in SAMPLE_RATE_HZ, BIT_DEPTH, CLK_MULT, PINS and SCLK_OUT_EN the arbiter writes the same
memory. -/
def Obligations.TransformIgnoresTheConfiguration : Prop :=
  ∀ (s t : State) (fidx : BitVec 16) (rate depth mult pins : Word) (en : BitVec 1),
    exec (.arbXframe fidx) s = .next t →
    exec (.arbXframe fidx) { s with
        sampleRate := rate, bitDepth := depth, clkMult := mult, pins := pins, sclkOutEn := en }
      = .next { t with
        sampleRate := rate, bitDepth := depth, clkMult := mult, pins := pins, sclkOutEn := en }

/-! ## TE -/

/-- 43_transfer_interface.md R108: TE_STEP by its cases. When it is taken, the received frame stands in
input frame (TE_HALF, TE_POS), the frame sent is what output frame (TE_HALF, TE_POS) holds (an unwritten
sample is a draw, of which nothing is said), every byte outside the input frame's eight bytes reads as
before, and the position advances, with a completion at the end of the half. -/
def Obligations.TeStepMovesOneFrameEachWay : Prop :=
  (∀ rxl rxr : Word, encode (.teStep rxl rxr) = [0x20000000#32, rxl, rxr])
  ∧ ∀ (s : State) (rxl rxr : Word),
    (s.par.bench = true → exec (.teStep rxl rxr) s = .next (refuse .mode s))
    ∧ (s.par.bench = false → s.active = false →
      exec (.teStep rxl rxr) s = .refused .notEnabled)
    ∧ (s.par.bench = false → s.active = true →
      saddr s.par s.inBase s.teHalf s.tePos.toNat 1 + 4 ≤ 2 ^ 32 →
      saddr s.par s.outBase s.teHalf s.tePos.toNat 1 + 4 ≤ 2 ^ 32 →
      ∃ (t : State) (sent : Frame), exec (.teStep rxl rxr) s = .next t
        ∧ t.frameAt s.inBase s.teHalf s.tePos.toNat = some { l := rxl, r := rxr }
        ∧ (∀ l, t.wordAt (saddr s.par s.outBase s.teHalf s.tePos.toNat 0) = some l → sent.l = l)
        ∧ (∀ r, t.wordAt (saddr s.par s.outBase s.teHalf s.tePos.toNat 1) = some r → sent.r = r)
        ∧ (∀ a, (a < saddr s.par s.inBase s.teHalf s.tePos.toNat 0
              ∨ saddr s.par s.inBase s.teHalf s.tePos.toNat 0 + 8 ≤ a) → t.byteAt a = s.byteAt a)
        ∧ t.ownViol = (s.ownViol || ownViolNow t)
        ∧ (s.tePos.toNat + 1 < s.par.n → t = { s with
            mem := t.mem, draws := t.draws, ownViol := t.ownViol
            tx := s.tx ++ [sent]
            tePos := BitVec.ofNat 16 (s.tePos.toNat + 1) })
        ∧ (s.par.n ≤ s.tePos.toNat + 1 → t = { s with
            mem := t.mem, draws := t.draws, ownViol := t.ownViol
            tx := s.tx ++ [sent]
            tePos := 0#16
            teHalf := s.teHalf.other
            inPtr := if s.teHalf = .half0 then s.inBase else s.par.ptrAlt
            evtLost := s.evtLost || s.cmplFlag
            cmplFlag := true }))

/-- 43_transfer_interface.md R109: N frames in a row from the start of a half complete exactly that half:
they stand in the input half, N frames are sent, the engine is at the start of the other half, the
pointer follows the contract of R107, and a completion is pending. -/
def Obligations.EngineCompletesAHalfInNSteps : Prop :=
  ∀ (s : State) (fs : List Frame), SessionInv s → s.active = true → s.par.bench = false →
    s.tePos = 0#16 → fs.length = s.par.n →
    ∃ t, execAll (fs.map fun f => .teStep f.l f.r) s = .next t
      ∧ (∀ i f, fs[i]? = some f → t.frameAt s.inBase s.teHalf i = some f)
      ∧ (∀ a, ¬ inHalf s.par s.inBase s.teHalf a → t.byteAt a = s.byteAt a)
      ∧ t.tx.length = s.tx.length + s.par.n
      ∧ t.teHalf = s.teHalf.other ∧ t.tePos = 0#16
      ∧ t.inPtr = (if s.teHalf = .half0 then s.inBase else s.par.ptrAlt)
      ∧ t.cmplFlag = true ∧ t.evtLost = (s.evtLost || s.cmplFlag)

/-- 41_arbiter.md R92, case c, and 43_transfer_interface.md R108, corner b: a completion that finds the
arbiter still at work on the other half is lost, and moves the engine onto the half being processed. -/
def Obligations.CompletionDuringProcessingIsLost : Prop :=
  ∀ (s t : State) (rxl rxr : Word), ArbiterInv s → s.par.bench = false → s.busy = true →
    s.sel = s.teHalf.other → s.par.n ≤ s.tePos.toNat + 1 →
    exec (.teStep rxl rxr) s = .next t →
    t.evtLost = true ∧ t.ownViol = true ∧ t.teHalf = s.sel ∧ t.busy = true ∧ t.cmplFlag = true
      ∧ exec .arbSample t = .refused .notEnabled

/-- 43_transfer_interface.md R110: with the transfer engine and no event lost, the k-th frame received
after START is sent, transformed, as frame k + 2N, whatever the other agents do in between. -/
def Obligations.ReceivedFrameIsSentTwoHalvesLater : Prop :=
  ∀ (is : List Instr) (s t : State), SafetyInv s → s.par.bench = false → s.active = true →
    s.busy = false → s.cmplFlag = false → s.tePos = 0#16 → s.tx = [] →
    execAll is s = .next t → t.evtLost = false →
    ∀ (k : Nat) (f : Frame), (received is)[k]? = some f → k + 2 * s.par.n < t.tx.length →
      t.tx[k + 2 * s.par.n]? = some (xform s.par f)

/-! ## BENCH -/

/-- 43_transfer_interface.md R114 with 60_exceptions.md R117: BENCH_LOAD's refusals in their order, and
the one word it writes through a word-aligned base (the precondition of 20_memory.md R42); every byte
outside the word's four bytes reads as before. -/
def Obligations.BenchLoadWritesOneWord : Prop :=
  (∀ k v : Word, encode (.benchLoad .input k v) = [0x30000000#32, k, v]
    ∧ encode (.benchLoad .output k v) = [0x30000001#32, k, v])
  ∧ ∀ (s : State) (buf : Buf) (k v : Word) (base : Word),
    base = (match buf with | .input => s.inBase | .output => s.outBase) →
    (s.par.bench = false → exec (.benchLoad buf k v) s = .next (refuse .mode s))
    ∧ (s.par.bench = true → 4 * s.par.n ≤ k.toNat →
      exec (.benchLoad buf k v) s = .next (refuse .benchRange s))
    ∧ (s.par.bench = true → k.toNat < 4 * s.par.n → 2 ^ 32 ≤ base.toNat + 4 * k.toNat →
      exec (.benchLoad buf k v) s = .next (refuse .benchRange s))
    ∧ (s.par.bench = true → k.toNat < 4 * s.par.n → base.toNat + 4 * k.toNat < 2 ^ 32 →
      s.busy = true → k.toNat / (2 * s.par.n) = s.sel.index →
      exec (.benchLoad buf k v) s = .next (refuse .benchOwned s))
    ∧ (s.par.bench = true → k.toNat < 4 * s.par.n → base.toNat + 4 * k.toNat < 2 ^ 32 →
      base.toNat % 4 = 0 → (s.busy = true → k.toNat / (2 * s.par.n) ≠ s.sel.index) →
      ∃ t, exec (.benchLoad buf k v) s = .next t
        ∧ t.wordAt (base.toNat + 4 * k.toNat) = some v
        ∧ (∀ a, (a < base.toNat + 4 * k.toNat ∨ base.toNat + 4 * k.toNat + 4 ≤ a) →
            t.byteAt a = s.byteAt a)
        ∧ t = { s with mem := t.mem })

/-- The model's own choice (log entries 10 and 11), where a base that is no multiple of 4 breaks the
precondition of 20_memory.md R42: the step is taken all the same, the word at base + 4k is the value
loaded, and every byte but that word's four, which go on from address 0 past the top of the address
space, reads as before. -/
def Obligations.BenchLoadThroughAMisalignedBase : Prop :=
  ∀ (s : State) (buf : Buf) (k v : Word) (base : Word),
    base = (match buf with | .input => s.inBase | .output => s.outBase) → base.toNat % 4 ≠ 0 →
    s.par.bench = true → k.toNat < 4 * s.par.n → base.toNat + 4 * k.toNat < 2 ^ 32 →
    (s.busy = true → k.toNat / (2 * s.par.n) ≠ s.sel.index) →
    ∃ t, exec (.benchLoad buf k v) s = .next t
      ∧ t.wordAt (base.toNat + 4 * k.toNat) = some v
      ∧ (∀ a, (∀ i, i < 4 → a ≠ (base.toNat + 4 * k.toNat + i) % 2 ^ 32) → t.byteAt a = s.byteAt a)
      ∧ t = { s with mem := t.mem }

/-- 43_transfer_interface.md R113: BENCH_RAISE presents a pointer and raises a completion, which merges
with a pending one. -/
def Obligations.BenchRaisePresentsThePointer : Prop :=
  (∀ ptr : Word, encode (.benchRaise ptr) = [0x31000000#32, ptr])
  ∧ ∀ (s : State) (ptr : Word),
    (s.par.bench = false → exec (.benchRaise ptr) s = .next (refuse .mode s))
    ∧ (s.par.bench = true → s.active = false →
      exec (.benchRaise ptr) s = .next (refuse .notActive s))
    ∧ (s.par.bench = true → s.active = true →
      exec (.benchRaise ptr) s = .next { s with
        inPtr := ptr
        evtLost := s.evtLost || s.cmplFlag
        cmplFlag := true })

/-- 43_transfer_interface.md R112: in bench mode no step moves the engine or transmits, and the engine's
position is not read: with any other position every step does the same. -/
def Obligations.BenchModeHasNoEngine : Prop :=
  ∀ (i : Instr) (s t : State), s.par.bench = true → exec i s = .next t →
    t.teHalf = s.teHalf ∧ t.tePos = s.tePos ∧ t.tx = s.tx ∧ t.ownViol = s.ownViol
      ∧ ∀ (h : Half) (pos : BitVec 16),
        exec i { s with teHalf := h, tePos := pos } = .next { t with teHalf := h, tePos := pos }

/-! ## Refusals, flags and the monitor -/

/-- 10_state.md R34: no refusal at reset, and a refusal changes the mark and the reason alone. Whether a
step is refused is told on the state with both cleared: if it sets the mark there, it is refused, changes
nothing else and keeps a reason already recorded; if it does not, it touches neither mark nor reason. An
invalid header, which only `step` refuses, does the same and takes its one word (30_encoding.md R61). -/
def Obligations.RefusalChangesOnlyTheMark : Prop :=
  State.reset.refused = false ∧ State.reset.refuseReason = none
  ∧ (∀ (i : Instr) (s u : State),
      exec i { s with refused := false, refuseReason := none } = .next u →
      (u.refused = true → ∃ reason, u.refuseReason = some reason
        ∧ exec i s = .next { s with
            refused := true, refuseReason := some (s.refuseReason.getD reason) })
      ∧ (u.refused = false → ∃ t, exec i s = .next t ∧ t.refused = s.refused
        ∧ t.refuseReason = s.refuseReason
        ∧ u = { t with refused := false, refuseReason := none }))
  ∧ ∀ (s : State) (h : Word) (rest : List Word), s.labels = h :: rest → headerWellFormed h = false →
      step s = .next { s with
        labels := rest, refused := true
        refuseReason := some (s.refuseReason.getD .illegalLabel) }

/-- 60_exceptions.md R116, R117: which reason a first refusal records, exactly: the reasons of codes 2
to 9 by operation and condition, the earlier check first. -/
def Obligations.FirstRefusalRecordsItsReason : Prop :=
  ∀ (i : Instr) (s t : State), s.refuseReason = none → exec i s = .next t →
    (t.refuseReason = some .mode ↔
      (i.agent = .te ∧ s.par.bench = true) ∨ (i.agent = .bench ∧ s.par.bench = false))
    ∧ (t.refuseReason = some .regUnmapped ↔
      ∃ widx : BitVec 8, 11 ≤ widx.toNat ∧ (i = .regRead widx ∨ ∃ d, i = .regWrite widx d))
    ∧ (t.refuseReason = some .cfgLocked ↔
      ∃ widx d, i = .regWrite widx d ∧ widx ∈ [2#8, 3#8, 5#8, 6#8, 7#8, 8#8, 9#8, 10#8]
        ∧ (s.active = true ∨ s.cfgErr = true))
    ∧ (t.refuseReason = some .startAgain ↔
      ∃ d, i = .regWrite 0#8 d ∧ d.getLsbD 0 = true ∧ (s.active = true ∨ s.cfgErr = true))
    ∧ (t.refuseReason = some .ptrAlt ↔
      ∃ d, i = .regWrite 0#8 d ∧ d.getLsbD 0 = true ∧ s.active = false ∧ s.cfgErr = false
        ∧ s.par.bench = false ∧ s.par.ptrAlt = s.inBase)
    ∧ (t.refuseReason = some .notActive ↔
      ∃ ptr, i = .benchRaise ptr ∧ s.par.bench = true ∧ s.active = false)
    ∧ (t.refuseReason = some .benchRange ↔
      ∃ buf k v, i = .benchLoad buf k v ∧ s.par.bench = true
        ∧ (4 * s.par.n ≤ k.toNat ∨ 2 ^ 32 ≤ benchAddr (bufBase buf s) k))
    ∧ (t.refuseReason = some .benchOwned ↔
      ∃ buf k v, i = .benchLoad buf k v ∧ s.par.bench = true ∧ k.toNat < 4 * s.par.n
        ∧ benchAddr (bufBase buf s) k < 2 ^ 32
        ∧ s.busy = true ∧ k.toNat / (2 * s.par.n) = s.sel.index)
    ∧ t.refuseReason ≠ some .illegalLabel

/-- 41_arbiter.md R87: after every step, OWN_VIOL is set exactly if it was, or if the transfer engine
owns the half the arbiter is processing. -/
def Obligations.MonitorFollowsEveryStep : Prop :=
  ∀ (i : Instr) (s t : State), MonitorSettled s → exec i s = .next t →
    (t.ownViol = true ↔ s.ownViol = true
      ∨ (t.par.bench = false ∧ t.active = true ∧ t.busy = true ∧ t.sel = t.teHalf))

/-- 10_state.md R33: no step reads the ghost flags: from a state with other ghost flags every step has
the same outcome, but for the ghost flags. -/
def Obligations.GhostFlagsAreNotRead : Prop :=
  ∀ (i : Instr) (s u : State), withoutGhosts s = withoutGhosts u →
    (∀ t, exec i s = .next t → ∃ v, exec i u = .next v ∧ withoutGhosts t = withoutGhosts v)
    ∧ (∀ r, exec i s = .refused r → exec i u = .refused r)

/-- 10_state.md R18, R19, R22, R33, R34: nothing clears ACTIVE, CFG_ERR, SEL_VALID, the ghost flags or
the refusal mark, and the first reason stays. -/
def Obligations.StickyBitsAreNeverCleared : Prop :=
  ∀ s t : State, step s = .next t →
    (s.active = true → t.active = true) ∧ (s.cfgErr = true → t.cfgErr = true)
    ∧ (s.selValid = true → t.selValid = true) ∧ (s.ownViol = true → t.ownViol = true)
    ∧ (s.evtLost = true → t.evtLost = true) ∧ (s.altBreak = true → t.altBreak = true)
    ∧ (s.refused = true → t.refused = true)
    ∧ (∀ r, s.refuseReason = some r → t.refuseReason = some r)

/-- 10_state.md R24: CMPL_FLAG is set only by a TE completion or a BENCH_RAISE and cleared only by
ARB_ACK; EVT_LOST is set exactly by a completion that finds the flag set. -/
def Obligations.CompletionFlagHasItsWriters : Prop :=
  ∀ (i : Instr) (s t : State), ArbiterInv s → exec i s = .next t →
    (s.cmplFlag = false → t.cmplFlag = true →
      (∃ l r, i = .teStep l r ∧ s.par.n ≤ s.tePos.toNat + 1) ∨ ∃ p, i = .benchRaise p)
    ∧ (s.cmplFlag = true → t.cmplFlag = false → i = .arbAck)
    ∧ (s.evtLost = false → t.evtLost = true → s.cmplFlag = true
      ∧ ((∃ l r, i = .teStep l r ∧ s.par.n ≤ s.tePos.toNat + 1) ∨ ∃ p, i = .benchRaise p))

/-! ## What each operation leaves alone -/

/-- 10_state.md R18 to R26, R33, R35: each datapath, interface and engine register is written only by the
steps its rule names. The model's own fields follow: the traces `acks` and `starts` of the ports (log
entry 12), and the schedule `labels`, which `exec` leaves alone (log entry 5). -/
def Obligations.RegistersHaveTheirWriters : Prop :=
  ∀ (i : Instr) (s t : State), exec i s = .next t →
    (t.active ≠ s.active ∨ t.cfgErr ≠ s.cfgErr ∨ t.starts ≠ s.starts →
      ∃ d, i = .regWrite 0#8 d ∧ d.getLsbD 0 = true)
    ∧ (t.busy ≠ s.busy → i = .arbSample ∨ i = .arbAck)
    ∧ (t.sel ≠ s.sel ∨ t.selValid ≠ s.selValid ∨ t.altBreak ≠ s.altBreak → i = .arbSample)
    ∧ (t.idx ≠ s.idx → i.agent = .arb)
    ∧ (t.inPtr ≠ s.inPtr → (∃ l r, i = .teStep l r) ∨ (∃ p, i = .benchRaise p)
        ∨ ∃ d, i = .regWrite 0#8 d ∧ d.getLsbD 0 = true)
    ∧ (t.teHalf ≠ s.teHalf ∨ t.tePos ≠ s.tePos → (∃ l r, i = .teStep l r)
        ∨ ∃ d, i = .regWrite 0#8 d ∧ d.getLsbD 0 = true)
    ∧ (t.tx ≠ s.tx → ∃ l r, i = .teStep l r)
    ∧ (t.rd ≠ s.rd → ∃ w, i = .regRead w)
    ∧ (t.acks ≠ s.acks → i = .arbAck)
    ∧ t.labels = s.labels

/-- The frame of the operations that store nothing (HOST_IDLE, REG_READ, REG_WRITE, ARB_SAMPLE, ARB_ACK,
BENCH_RAISE): every byte of memory reads as before, no draw is made, and none but a REG_WRITE changes a
configuration register (20_memory.md R48; 42_session.md R94, R95, R99). -/
def Obligations.StepsThatStoreNothingLeaveMemory : Prop :=
  ∀ (i : Instr) (s t : State),
    (i = .hostIdle ∨ (∃ w, i = .regRead w) ∨ (∃ w d, i = .regWrite w d) ∨ i = .arbSample
      ∨ i = .arbAck ∨ ∃ p, i = .benchRaise p) →
    exec i s = .next t →
    (∀ a, t.byteAt a = s.byteAt a) ∧ t.draws = s.draws
      ∧ ((∀ w d, i ≠ .regWrite w d) → portCfg t = portCfg s)

/-- 20_memory.md R48: ARB writes only the output half SEL, TE only the input half TE_HALF, BENCH_LOAD
only the region it names; every other byte reads as before. For ARB and TE the premises are invariants of
the machine (BusyImpliesPendingIsKept, StreamingSessionStaysValid, PointerContractIsKept), by which the
regions lie inside the address space (R46); for BENCH_LOAD it is a word-aligned base, and
BenchLoadThroughAMisalignedBase says which bytes are written through any other. -/
def Obligations.EachAgentWritesOnlyItsHalf : Prop :=
  ∀ (s t : State),
    (ArbiterInv s → SessionInv s → ∀ fidx, exec (.arbXframe fidx) s = .next t →
      ∀ a, ¬ inHalf s.par s.outBase s.sel a → t.byteAt a = s.byteAt a)
    ∧ (SessionInv s → EngineInv s → ∀ l r, exec (.teStep l r) s = .next t →
      ∀ a, ¬ inHalf s.par s.inBase s.teHalf a → t.byteAt a = s.byteAt a)
    ∧ (∀ buf k v, (bufBase buf s).toNat % 4 = 0 → exec (.benchLoad buf k v) s = .next t →
      ∀ a, ¬ inRegion s.par (bufBase buf s) a → t.byteAt a = s.byteAt a)

/-- 70_reset_and_hazards.md R135, R139: no step changes the parameters, and after a START, successful or
failed, no step changes a configuration register. -/
def Obligations.ConfigurationIsFixedAfterStart : Prop :=
  ∀ s t : State, step s = .next t →
    t.par = s.par ∧ (s.active = true ∨ s.cfgErr = true → portCfg t = portCfg s)

/-- 42_session.md R101: after a failed START the block is dead: CFG_ERR stays 1 and ACTIVE 0, no ARB or TE
step exists, and LOCKED-RW writes and START are refused. -/
def Obligations.FailedStartIsFinal : Prop :=
  ∀ s : State, ArbiterInv s → s.cfgErr = true → s.active = false →
    (∀ t, step s = .next t → t.cfgErr = true ∧ t.active = false)
    ∧ exec .arbSample s = .refused .notEnabled
    ∧ (∀ fidx, exec (.arbXframe fidx) s = .refused .notEnabled)
    ∧ exec .arbAck s = .refused .notEnabled
    ∧ (∀ l r, s.par.bench = false → exec (.teStep l r) s = .refused .notEnabled)
    ∧ (∀ d, d.getLsbD 0 = true → exec (.regWrite 0#8 d) s = .next (refuse .startAgain s))
    ∧ ∀ d, ∀ widx ∈ [2#8, 3#8, 5#8, 6#8, 7#8, 8#8, 9#8, 10#8],
        exec (.regWrite widx d) s = .next (refuse .cfgLocked s)

/-! ## Memory -/

/-- 30_encoding.md R67, R68 and 20_memory.md R39: a frame is two consecutive words, left at the lower
address, frames follow at a stride of 8 bytes, half 1 starts 8·N bytes after half 0, every sample of a
half lies inside it, and two different samples share no byte. -/
def Obligations.SamplesTileTheSplitBuffer : Prop :=
  (∀ (s : State) (base : Word) (h : Half) (i : Nat) (f : Frame), s.frameAt base h i = some f ↔
    s.wordAt (saddr s.par base h i 0) = some f.l ∧ s.wordAt (saddr s.par base h i 1) = some f.r)
  ∧ ∀ (p : Params) (base : Word),
    (∀ h i, saddr p base h i 1 = saddr p base h i 0 + 4)
    ∧ (∀ h i c, saddr p base h (i + 1) c = saddr p base h i c + 8)
    ∧ (∀ i c, saddr p base .half1 i c = saddr p base .half0 i c + 8 * p.n)
    ∧ saddr p base .half0 0 0 = base.toNat
    ∧ (∀ h i c j, i < p.n → c < 2 → j < 4 → inHalf p base h (saddr p base h i c + j))
    ∧ (∀ h i c h' i' c', i < p.n → i' < p.n → c < 2 → c' < 2 → (h, i, c) ≠ (h', i', c') →
        saddr p base h i c + 4 ≤ saddr p base h' i' c'
        ∨ saddr p base h' i' c' + 4 ≤ saddr p base h i c)

/-- 20_memory.md R41, R42, at the word-aligned addresses they are for: a write makes the word read back and
leaves every byte outside it; a read of a written word answers the word and changes nothing; a read of any
other word answers a draw, of which nothing is said, and only the model's draw counter moves (log entry 3).
A word of which a misaligned bench load wrote only some bytes counts as unwritten (log entry 9). -/
def Obligations.MemoryReadsTheLastWrite : Prop :=
  ∀ (s : State) (a : Nat), a % 4 = 0 → a < 2 ^ 32 →
    (∀ v, memRead a (memWrite a v s) = (v, memWrite a v s)
      ∧ (∀ b, (b < a ∨ a + 4 ≤ b) → (memWrite a v s).byteAt b = s.byteAt b)
      ∧ memWrite a v s = { s with mem := (memWrite a v s).mem })
    ∧ (∀ w, s.wordAt a = some w → memRead a s = (w, s))
    ∧ (s.wordAt a = none → (memRead a s).2 = { s with draws := (memRead a s).2.draws })

/-! ## Invariants -/

/-- Memory keeps its canonical form (log entry 9): every step from a canonical memory gives one. -/
def Obligations.MemoryStaysCanonical : Prop :=
  ∀ s t : State, MemoryInv s → step s = .next t → MemoryInv t

/-- 41_arbiter.md R88: BUSY implies a pending completion, with the arbiter's other control relations;
every step keeps them. -/
def Obligations.BusyImpliesPendingIsKept : Prop :=
  ∀ s t : State, ArbiterInv s → step s = .next t → ArbiterInv t

/-- 42_session.md R101: while streaming, the configuration is one that START accepts and `start` has been
sent exactly once; every step keeps this. -/
def Obligations.StreamingSessionStaysValid : Prop :=
  ∀ s t : State, SessionInv s → step s = .next t → SessionInv t

/-- 43_transfer_interface.md R107: the input pointer contract, with TE_POS inside the half; every step
keeps them. -/
def Obligations.PointerContractIsKept : Prop :=
  ∀ s t : State, EngineInv s → step s = .next t → EngineInv t

/-- 41_arbiter.md R91 and 70_reset_and_hazards.md R141: with the transfer engine and no event lost, the
selection follows the completed half, so OWN_VIOL and ALT_BREAK stay 0; every step keeps this. -/
def Obligations.CleanOwnershipIsKept : Prop :=
  ∀ s t : State, ArbiterInv s → SessionInv s → EngineInv s → CleanInv s →
    step s = .next t → CleanInv t

/-- 70_reset_and_hazards.md R141: in every run from reset, with any parameters and any schedule,
`DEADLINE_MET` with the transfer engine gives OWN_VIOL = 0 and ALT_BREAK = 0; and BUSY = 1 implies
CMPL_FLAG = 1 without any premise. The schedule is the model's list of labels placed at reset (log entry
5). -/
def Obligations.DeadlineMetRunsAreClean : Prop :=
  ∀ (p : Params) (ls : List Word) (k : Nat) (t : State),
    Host.Core.run Sys2Proof.core k { State.resetFor p with labels := ls } = .next t →
    (p.bench = false → DeadlineMet t → t.ownViol = false ∧ t.altBreak = false)
    ∧ (t.busy = true → t.cmplFlag = true)

/-- 70_reset_and_hazards.md R141, 20_memory.md R49, 60_exceptions.md R115: in every state, whatever the
bases, a label whose step exists has a next state, and the others are ARB and TE steps that do not exist
there; `step` never faults, and has no next state only for such a label or for want of one (log entry 5). -/
def Obligations.EveryStepIsTotal : Prop :=
  (∀ (i : Instr) (s : State), stepExists i s = true → ∃ t, exec i s = .next t)
  ∧ (∀ (i : Instr) (s : State), stepExists i s = false →
      exec i s = .refused .notEnabled ∧ (i.agent = .arb ∨ i.agent = .te))
  ∧ ∀ s : State, (∃ t, step s = .next t)
      ∨ (s.labels = [] ∧ step s = .refused .noLabel)
      ∨ (decode s.labels = .truncated ∧ step s = .refused .truncatedLabel)
      ∨ (∃ i rest, decode s.labels = .label i rest ∧ stepExists i s = false
          ∧ step s = .refused .notEnabled)

/-! ## Infinite runs and liveness -/

/-- The model's own choice, and no rule of the spec: the model has two forms of a run, the infinite runs
`IsRun`, in which an invalid header is the one request `illegal` (log entry 13), and the runs of `step` on
labels placed in the schedule at reset (log entry 5). The two agree: each prefix of an infinite run is what
`step` does with the prefix's labels placed at reset, and each finite run goes on for ever in some infinite
run, from whose states only the labels not yet taken are absent. What the spec gives is that a scheduler
chooses each step (00_scope.md, section 1) and that safety claims are over finite prefixes and liveness
claims over infinite runs (70_reset_and_hazards.md, section 4). -/
def Obligations.RunPrefixesAreTheMachinesRuns : Prop :=
  (∀ (p : Params) (req : Nat → Request) (st : Nat → State) (k : Nat), IsRun p req st →
      Host.Core.run Sys2Proof.core k { State.resetFor p with labels := wordsBefore req k }
        = .next (st k))
  ∧ ∀ (p : Params) (ls : List Word) (k : Nat) (t : State),
      Host.Core.run Sys2Proof.core k { State.resetFor p with labels := ls } = .next t →
      ∃ req st, IsRun p req st ∧ st k = { t with labels := [] }

/-- 70_reset_and_hazards.md R143: no run ends. Every state has a next step; once ACTIVE = 1 no step ends the
session, and with the transfer engine TE always has an enabled step, which keeps it going. -/
def Obligations.NoRunEnds : Prop :=
  (∀ s : State, ∃ t, exec .hostIdle s = .next t)
  ∧ ∀ s : State, s.active = true →
      (∀ t, step s = .next t → t.active = true)
      ∧ (s.par.bench = false → ∀ rxl rxr, ∃ t, exec (.teStep rxl rxr) s = .next t ∧ t.active = true)

/-- 70_reset_and_hazards.md R142: once ACTIVE = 1 a HOST step neither enables nor disables any step. -/
def Obligations.HostStepsMoveNoEnabling : Prop :=
  ∀ (i j : Instr) (s t : State), i.agent = .host → s.active = true → exec i s = .next t →
    stepExists j t = stepExists j s

/-- 70_reset_and_hazards.md R142, its liveness claim: in a run that is fair to ARB every completion is
eventually acknowledged, a merged one with the one it merged into. The form of a run, and fairness per ARB
label, are the model's (log entry 13). -/
def Obligations.EveryCompletionIsAcknowledged : Prop :=
  ∀ (p : Params) (req : Nat → Request) (st : Nat → State), IsRun p req st → ArbFair req st →
    ∀ k, (st k).cmplFlag = true →
      ∃ m, k ≤ m ∧ req m = .label .arbAck ∧ (st m).cmplFlag = true ∧ (st (m + 1)).cmplFlag = false

/-- 70_reset_and_hazards.md R142 with 43_transfer_interface.md R109: with the transfer engine, a run that is
fair to TE and ARB completes and acknowledges for ever once it streams. The form of a run, and fairness per
ARB label, are the model's (log entry 13). -/
def Obligations.FairStreamingAcknowledgesForever : Prop :=
  ∀ (p : Params) (req : Nat → Request) (st : Nat → State), p.bench = false → IsRun p req st →
    ArbFair req st → TeFair req st → ∀ k, (st k).active = true →
      ∃ m, k ≤ m ∧ req m = .label .arbAck
end

