-- ==== Sys2Proof/Laws/Memory.lean ====
section
/-! SUPPORT. What reading and writing memory do, once: read after write, other places, and the canonical form (20_memory.md R41, R42; log entry 9). -/

namespace Sys2Proof.Machine

@[simp] theorem Memory.byteAt_nil (a : Nat) : Memory.byteAt [] a = none := rfl

/-- The byte just written is read back. -/
@[simp] theorem Memory.byteAt_setByte_same (m : Memory) (a : Nat) (v : Byte) :
    Memory.byteAt (Memory.setByte m a v) a = some v := by
  induction m with
  | nil => simp [Memory.setByte, Memory.byteAt]
  | cons c m ih =>
    obtain ⟨b, w⟩ := c
    simp only [Memory.setByte]
    split
    · simp [Memory.byteAt]
    · split
      · simp [Memory.byteAt]
      · simp [Memory.byteAt, *]

/-- Every other byte reads as before. -/
theorem Memory.byteAt_setByte_other {m : Memory} {a c : Nat} {v : Byte} (h : c ≠ a) :
    Memory.byteAt (Memory.setByte m a v) c = Memory.byteAt m c := by
  induction m with
  | nil => simp [Memory.setByte, Memory.byteAt, Memory.unlisted, h]
  | cons d m ih =>
    obtain ⟨b, w⟩ := d
    simp only [Memory.setByte]
    split
    · simp [Memory.byteAt, h]
    · split
      · next hab => subst hab; simp [Memory.byteAt, h]
      · simp [Memory.byteAt, ih]

/-- One written byte, at any address. -/
theorem Memory.byteAt_setByte (m : Memory) (a c : Nat) (v : Byte) :
    Memory.byteAt (Memory.setByte m a v) c = if c = a then some v else Memory.byteAt m c := by
  split
  · next h => subst h; simp
  · next h => exact Memory.byteAt_setByte_other h

theorem Memory.risesFrom_mono {low low' : Nat} {m : Memory} (h : low' ≤ low)
    (hm : Memory.risesFrom low m = true) : Memory.risesFrom low' m = true := by
  cases m with
  | nil => rfl
  | cons c m =>
    obtain ⟨b, w⟩ := c
    simp only [Memory.risesFrom, Bool.and_eq_true, decide_eq_true_eq] at hm ⊢
    exact ⟨⟨by omega, hm.1.2⟩, hm.2⟩

/-- Writing a byte inside the address space keeps the canonical form. -/
theorem Memory.risesFrom_setByte {low a : Nat} {v : Byte} {m : Memory} (hlow : low ≤ a)
    (ha : a < 2 ^ 32) (hm : Memory.risesFrom low m = true) :
    Memory.risesFrom low (Memory.setByte m a v) = true := by
  induction m generalizing low with
  | nil => simp [Memory.setByte, Memory.risesFrom]; omega
  | cons c m ih =>
    obtain ⟨b, w⟩ := c
    simp only [Memory.risesFrom, Bool.and_eq_true, decide_eq_true_eq] at hm
    obtain ⟨⟨hb, hb'⟩, hm⟩ := hm
    simp only [Memory.setByte]
    split
    · simp [Memory.risesFrom, hm]; omega
    · split
      · next hab => subst hab; simp [Memory.risesFrom, hm]; omega
      · have := ih (low := b + 1) (by omega) hm
        simp [Memory.risesFrom, this]; omega

theorem Memory.wf_setByte {m : Memory} {a : Nat} {v : Byte} (ha : a < 2 ^ 32)
    (hm : Memory.wf m = true) : Memory.wf (Memory.setByte m a v) = true :=
  Memory.risesFrom_setByte (Nat.zero_le a) ha hm

/-- Where a word's bytes stand is inside the address space. -/
theorem laneAddr_lt (a i : Nat) : laneAddr a i < 2 ^ 32 := Nat.mod_lt _ (by decide)

/-- A word that lies inside the address space has its bytes at rising addresses. -/
theorem laneAddr_eq {a i : Nat} (h : a + i < 2 ^ 32) : laneAddr a i = a + i := Nat.mod_eq_of_lt h

/-- Writing a word keeps the canonical form, wherever it is. -/
theorem Memory.wf_writeWord {order : ByteOrder} {m : Memory} {a : Nat} {w : Word}
    (hm : Memory.wf m = true) : Memory.wf (Memory.writeWord order m a w) = true := by
  simp only [Memory.writeWord, List.foldl]
  iterate 4 refine Memory.wf_setByte (laneAddr_lt _ _) ?_
  exact hm

/-- Equal readings make equal memories: the form is canonical. -/
theorem Memory.ext_of_risesFrom {low : Nat} {m m' : Memory} (hm : Memory.risesFrom low m = true)
    (hm' : Memory.risesFrom low m' = true) (h : ∀ a, Memory.byteAt m a = Memory.byteAt m' a) :
    m = m' := by
  have absent : ∀ {l : Nat} {n : Memory} {a : Nat}, Memory.risesFrom l n = true → a < l →
      Memory.byteAt n a = none := by
    intro l n a hn ha
    induction n generalizing l with
    | nil => rfl
    | cons c n ih =>
      obtain ⟨b, w⟩ := c
      simp only [Memory.risesFrom, Bool.and_eq_true, decide_eq_true_eq] at hn
      have hab : a ≠ b := by omega
      simp [Memory.byteAt, hab, ih hn.2 (by omega)]
  induction m generalizing low m' with
  | nil =>
    cases m' with
    | nil => rfl
    | cons c n =>
      obtain ⟨b, w⟩ := c
      have := h b
      simp [Memory.byteAt, Memory.unlisted] at this
  | cons c m ih =>
    obtain ⟨b, w⟩ := c
    cases m' with
    | nil =>
      have := h b
      simp [Memory.byteAt, Memory.unlisted] at this
    | cons d n =>
      obtain ⟨b', w'⟩ := d
      simp only [Memory.risesFrom, Bool.and_eq_true, decide_eq_true_eq] at hm hm'
      have hb := h b
      have hb' := h b'
      have hbb : b = b' := by
        rcases Nat.lt_trichotomy b b' with hlt | heq | hgt
        · have hne : b ≠ b' := by omega
          simp [Memory.byteAt, hne, absent hm'.2 (show b < b' + 1 by omega)] at hb
        · exact heq
        · have hne : b' ≠ b := by omega
          simp [Memory.byteAt, hne, absent hm.2 (show b' < b + 1 by omega)] at hb'
      subst hbb
      have hww : w = w' := by simpa [Memory.byteAt] using hb
      subst hww
      congr 1
      refine ih (low := b + 1) hm.2 hm'.2 ?_
      intro a
      by_cases hab : a = b
      · subst hab
        rw [absent hm.2 (by omega), absent hm'.2 (by omega)]
      · have := h a
        simpa [Memory.byteAt, hab] using this

/-- Memories in canonical form that read alike are equal. -/
theorem Memory.ext_of_wf {m m' : Memory} (hm : Memory.wf m = true) (hm' : Memory.wf m' = true)
    (h : ∀ a, Memory.byteAt m a = Memory.byteAt m' a) : m = m' :=
  Memory.ext_of_risesFrom hm hm' h

/-- A word is put together again from its bytes. -/
theorem wordOfBytes_wordByte (w : Word) :
    wordOfBytes (wordByte w 0) (wordByte w 1) (wordByte w 2) (wordByte w 3) = w := by
  apply BitVec.eq_of_getLsbD_eq
  intro i hi
  simp only [wordOfBytes, wordByte, BitVec.getLsbD_append, BitVec.getLsbD_extractLsb']
  by_cases h0 : i < 8
  · simp [h0]
  · by_cases h1 : i - 8 < 8
    · simp [h0, h1]; congr 1; omega
    · by_cases h2 : i - 8 - 8 < 8
      · simp [h0, h1, h2]; congr 1; omega
      · simp only [h0, h1, h2, if_false]
        have h3 : i - 8 - 8 - 8 < 8 := by omega
        simp [h3]; congr 1; omega

/-- In either byte order, a word's four lanes give the word. -/
theorem wordOfLanes_byteLane (order : ByteOrder) (w : Word) :
    wordOfLanes order (wordByte w (byteLane order 0)) (wordByte w (byteLane order 1))
      (wordByte w (byteLane order 2)) (wordByte w (byteLane order 3)) = w := by
  cases order
  · exact wordOfBytes_wordByte w
  · exact wordOfBytes_wordByte w

/-- A byte that is none of a written word's four reads as before. -/
theorem Memory.byteAt_writeWord {order : ByteOrder} {m : Memory} {a c : Nat} {w : Word}
    (h : ∀ i, i < 4 → c ≠ laneAddr a i) :
    Memory.byteAt (Memory.writeWord order m a w) c = Memory.byteAt m c := by
  simp only [Memory.writeWord, List.foldl, Memory.byteAt_setByte, h, Nat.reduceLT, if_false]

/-- A byte outside a word written inside the address space reads as before. -/
theorem Memory.byteAt_writeWord_other {order : ByteOrder} {m : Memory} {a c : Nat} {w : Word}
    (ha : a + 4 ≤ 2 ^ 32) (h : c < a ∨ a + 4 ≤ c) :
    Memory.byteAt (Memory.writeWord order m a w) c = Memory.byteAt m c := by
  refine Memory.byteAt_writeWord fun i hi => ?_
  rw [laneAddr_eq (by omega)]
  omega

/-- The word just written is read back, in either byte order, wherever it is. -/
@[simp] theorem Memory.readWord_writeWord_same (order : ByteOrder) (m : Memory) (a : Nat) (w : Word) :
    Memory.readWord order (Memory.writeWord order m a w) a = some w := by
  have apart : ∀ i j, i < j → j < 4 → laneAddr a i ≠ laneAddr a j := by
    intro i j hij hj
    simp only [laneAddr]
    omega
  simp [Memory.readWord, Memory.writeWord, Memory.byteAt_setByte, apart, wordOfLanes_byteLane]

/-- A word apart from the one written reads as before, both inside the address space. -/
theorem Memory.readWord_writeWord_other {order order' : ByteOrder} {m : Memory} {a c : Nat} {w : Word}
    (ha : a + 4 ≤ 2 ^ 32) (hc : c + 4 ≤ 2 ^ 32) (h : c + 4 ≤ a ∨ a + 4 ≤ c) :
    Memory.readWord order' (Memory.writeWord order m a w) c = Memory.readWord order' m c := by
  have same : ∀ i, i < 4 → Memory.byteAt (Memory.writeWord order m a w) (laneAddr c i)
      = Memory.byteAt m (laneAddr c i) := by
    intro i hi
    rw [laneAddr_eq (by omega)]
    exact Memory.byteAt_writeWord_other ha (by omega)
  simp only [Memory.readWord, same, Nat.reduceLT]

end Sys2Proof.Machine
end

