-- ==== Sys2Proof/Laws/State.lean ====
section
/-! SUPPORT. One lemma per field of State for each operation that writes whole fields of it, so that no later proof unfolds a record update. -/

namespace Sys2Proof.Machine

/-! The fields after `refuse` (60_exceptions.md R116). -/

@[simp] theorem refuse_par (reason : RefuseReason) (s : State) :
    (refuse reason s).par = s.par := rfl
@[simp] theorem refuse_active (reason : RefuseReason) (s : State) :
    (refuse reason s).active = s.active := rfl
@[simp] theorem refuse_cfgErr (reason : RefuseReason) (s : State) :
    (refuse reason s).cfgErr = s.cfgErr := rfl
@[simp] theorem refuse_busy (reason : RefuseReason) (s : State) :
    (refuse reason s).busy = s.busy := rfl
@[simp] theorem refuse_sel (reason : RefuseReason) (s : State) :
    (refuse reason s).sel = s.sel := rfl
@[simp] theorem refuse_selValid (reason : RefuseReason) (s : State) :
    (refuse reason s).selValid = s.selValid := rfl
@[simp] theorem refuse_idx (reason : RefuseReason) (s : State) :
    (refuse reason s).idx = s.idx := rfl
@[simp] theorem refuse_cmplFlag (reason : RefuseReason) (s : State) :
    (refuse reason s).cmplFlag = s.cmplFlag := rfl
@[simp] theorem refuse_inPtr (reason : RefuseReason) (s : State) :
    (refuse reason s).inPtr = s.inPtr := rfl
@[simp] theorem refuse_teHalf (reason : RefuseReason) (s : State) :
    (refuse reason s).teHalf = s.teHalf := rfl
@[simp] theorem refuse_tePos (reason : RefuseReason) (s : State) :
    (refuse reason s).tePos = s.tePos := rfl
@[simp] theorem refuse_inBase (reason : RefuseReason) (s : State) :
    (refuse reason s).inBase = s.inBase := rfl
@[simp] theorem refuse_outBase (reason : RefuseReason) (s : State) :
    (refuse reason s).outBase = s.outBase := rfl
@[simp] theorem refuse_inCh (reason : RefuseReason) (s : State) :
    (refuse reason s).inCh = s.inCh := rfl
@[simp] theorem refuse_sampleRate (reason : RefuseReason) (s : State) :
    (refuse reason s).sampleRate = s.sampleRate := rfl
@[simp] theorem refuse_bitDepth (reason : RefuseReason) (s : State) :
    (refuse reason s).bitDepth = s.bitDepth := rfl
@[simp] theorem refuse_clkMult (reason : RefuseReason) (s : State) :
    (refuse reason s).clkMult = s.clkMult := rfl
@[simp] theorem refuse_pins (reason : RefuseReason) (s : State) :
    (refuse reason s).pins = s.pins := rfl
@[simp] theorem refuse_sclkOutEn (reason : RefuseReason) (s : State) :
    (refuse reason s).sclkOutEn = s.sclkOutEn := rfl
@[simp] theorem refuse_mem (reason : RefuseReason) (s : State) :
    (refuse reason s).mem = s.mem := rfl
@[simp] theorem refuse_ownViol (reason : RefuseReason) (s : State) :
    (refuse reason s).ownViol = s.ownViol := rfl
@[simp] theorem refuse_evtLost (reason : RefuseReason) (s : State) :
    (refuse reason s).evtLost = s.evtLost := rfl
@[simp] theorem refuse_altBreak (reason : RefuseReason) (s : State) :
    (refuse reason s).altBreak = s.altBreak := rfl
@[simp] theorem refuse_refused (reason : RefuseReason) (s : State) :
    (refuse reason s).refused = true := rfl
@[simp] theorem refuse_tx (reason : RefuseReason) (s : State) :
    (refuse reason s).tx = s.tx := rfl
@[simp] theorem refuse_rd (reason : RefuseReason) (s : State) :
    (refuse reason s).rd = s.rd := rfl
@[simp] theorem refuse_acks (reason : RefuseReason) (s : State) :
    (refuse reason s).acks = s.acks := rfl
@[simp] theorem refuse_starts (reason : RefuseReason) (s : State) :
    (refuse reason s).starts = s.starts := rfl
@[simp] theorem refuse_labels (reason : RefuseReason) (s : State) :
    (refuse reason s).labels = s.labels := rfl
@[simp] theorem refuse_draws (reason : RefuseReason) (s : State) :
    (refuse reason s).draws = s.draws := rfl

/-! The fields after `raiseCompletion` (43_transfer_interface.md R108, R113). -/

@[simp] theorem raiseCompletion_par (ptr : Word) (s : State) :
    (raiseCompletion ptr s).par = s.par := rfl
@[simp] theorem raiseCompletion_active (ptr : Word) (s : State) :
    (raiseCompletion ptr s).active = s.active := rfl
@[simp] theorem raiseCompletion_cfgErr (ptr : Word) (s : State) :
    (raiseCompletion ptr s).cfgErr = s.cfgErr := rfl
@[simp] theorem raiseCompletion_busy (ptr : Word) (s : State) :
    (raiseCompletion ptr s).busy = s.busy := rfl
@[simp] theorem raiseCompletion_sel (ptr : Word) (s : State) :
    (raiseCompletion ptr s).sel = s.sel := rfl
@[simp] theorem raiseCompletion_selValid (ptr : Word) (s : State) :
    (raiseCompletion ptr s).selValid = s.selValid := rfl
@[simp] theorem raiseCompletion_idx (ptr : Word) (s : State) :
    (raiseCompletion ptr s).idx = s.idx := rfl
@[simp] theorem raiseCompletion_cmplFlag (ptr : Word) (s : State) :
    (raiseCompletion ptr s).cmplFlag = true := rfl
@[simp] theorem raiseCompletion_inPtr (ptr : Word) (s : State) :
    (raiseCompletion ptr s).inPtr = ptr := rfl
@[simp] theorem raiseCompletion_teHalf (ptr : Word) (s : State) :
    (raiseCompletion ptr s).teHalf = s.teHalf := rfl
@[simp] theorem raiseCompletion_tePos (ptr : Word) (s : State) :
    (raiseCompletion ptr s).tePos = s.tePos := rfl
@[simp] theorem raiseCompletion_inBase (ptr : Word) (s : State) :
    (raiseCompletion ptr s).inBase = s.inBase := rfl
@[simp] theorem raiseCompletion_outBase (ptr : Word) (s : State) :
    (raiseCompletion ptr s).outBase = s.outBase := rfl
@[simp] theorem raiseCompletion_inCh (ptr : Word) (s : State) :
    (raiseCompletion ptr s).inCh = s.inCh := rfl
@[simp] theorem raiseCompletion_sampleRate (ptr : Word) (s : State) :
    (raiseCompletion ptr s).sampleRate = s.sampleRate := rfl
@[simp] theorem raiseCompletion_bitDepth (ptr : Word) (s : State) :
    (raiseCompletion ptr s).bitDepth = s.bitDepth := rfl
@[simp] theorem raiseCompletion_clkMult (ptr : Word) (s : State) :
    (raiseCompletion ptr s).clkMult = s.clkMult := rfl
@[simp] theorem raiseCompletion_pins (ptr : Word) (s : State) :
    (raiseCompletion ptr s).pins = s.pins := rfl
@[simp] theorem raiseCompletion_sclkOutEn (ptr : Word) (s : State) :
    (raiseCompletion ptr s).sclkOutEn = s.sclkOutEn := rfl
@[simp] theorem raiseCompletion_mem (ptr : Word) (s : State) :
    (raiseCompletion ptr s).mem = s.mem := rfl
@[simp] theorem raiseCompletion_ownViol (ptr : Word) (s : State) :
    (raiseCompletion ptr s).ownViol = s.ownViol := rfl
@[simp] theorem raiseCompletion_evtLost (ptr : Word) (s : State) :
    (raiseCompletion ptr s).evtLost = (s.evtLost || s.cmplFlag) := rfl
@[simp] theorem raiseCompletion_altBreak (ptr : Word) (s : State) :
    (raiseCompletion ptr s).altBreak = s.altBreak := rfl
@[simp] theorem raiseCompletion_refused (ptr : Word) (s : State) :
    (raiseCompletion ptr s).refused = s.refused := rfl
@[simp] theorem raiseCompletion_refuseReason (ptr : Word) (s : State) :
    (raiseCompletion ptr s).refuseReason = s.refuseReason := rfl
@[simp] theorem raiseCompletion_tx (ptr : Word) (s : State) :
    (raiseCompletion ptr s).tx = s.tx := rfl
@[simp] theorem raiseCompletion_rd (ptr : Word) (s : State) :
    (raiseCompletion ptr s).rd = s.rd := rfl
@[simp] theorem raiseCompletion_acks (ptr : Word) (s : State) :
    (raiseCompletion ptr s).acks = s.acks := rfl
@[simp] theorem raiseCompletion_starts (ptr : Word) (s : State) :
    (raiseCompletion ptr s).starts = s.starts := rfl
@[simp] theorem raiseCompletion_labels (ptr : Word) (s : State) :
    (raiseCompletion ptr s).labels = s.labels := rfl
@[simp] theorem raiseCompletion_draws (ptr : Word) (s : State) :
    (raiseCompletion ptr s).draws = s.draws := rfl

/-! The fields after `enterArbiter` (41_arbiter.md R82). -/

@[simp] theorem enterArbiter_par (s : State) :
    (enterArbiter s).par = s.par := rfl
@[simp] theorem enterArbiter_active (s : State) :
    (enterArbiter s).active = s.active := rfl
@[simp] theorem enterArbiter_cfgErr (s : State) :
    (enterArbiter s).cfgErr = s.cfgErr := rfl
@[simp] theorem enterArbiter_busy (s : State) :
    (enterArbiter s).busy = true := rfl
@[simp] theorem enterArbiter_sel (s : State) :
    (enterArbiter s).sel = selectHalf s.inPtr s := rfl
@[simp] theorem enterArbiter_selValid (s : State) :
    (enterArbiter s).selValid = true := rfl
@[simp] theorem enterArbiter_idx (s : State) :
    (enterArbiter s).idx = 0#16 := rfl
@[simp] theorem enterArbiter_cmplFlag (s : State) :
    (enterArbiter s).cmplFlag = s.cmplFlag := rfl
@[simp] theorem enterArbiter_inPtr (s : State) :
    (enterArbiter s).inPtr = s.inPtr := rfl
@[simp] theorem enterArbiter_teHalf (s : State) :
    (enterArbiter s).teHalf = s.teHalf := rfl
@[simp] theorem enterArbiter_tePos (s : State) :
    (enterArbiter s).tePos = s.tePos := rfl
@[simp] theorem enterArbiter_inBase (s : State) :
    (enterArbiter s).inBase = s.inBase := rfl
@[simp] theorem enterArbiter_outBase (s : State) :
    (enterArbiter s).outBase = s.outBase := rfl
@[simp] theorem enterArbiter_inCh (s : State) :
    (enterArbiter s).inCh = s.inCh := rfl
@[simp] theorem enterArbiter_sampleRate (s : State) :
    (enterArbiter s).sampleRate = s.sampleRate := rfl
@[simp] theorem enterArbiter_bitDepth (s : State) :
    (enterArbiter s).bitDepth = s.bitDepth := rfl
@[simp] theorem enterArbiter_clkMult (s : State) :
    (enterArbiter s).clkMult = s.clkMult := rfl
@[simp] theorem enterArbiter_pins (s : State) :
    (enterArbiter s).pins = s.pins := rfl
@[simp] theorem enterArbiter_sclkOutEn (s : State) :
    (enterArbiter s).sclkOutEn = s.sclkOutEn := rfl
@[simp] theorem enterArbiter_mem (s : State) :
    (enterArbiter s).mem = s.mem := rfl
@[simp] theorem enterArbiter_ownViol (s : State) :
    (enterArbiter s).ownViol = s.ownViol := rfl
@[simp] theorem enterArbiter_evtLost (s : State) :
    (enterArbiter s).evtLost = s.evtLost := rfl
@[simp] theorem enterArbiter_altBreak (s : State) :
    (enterArbiter s).altBreak = altBreakAfter (selectHalf s.inPtr s) s := rfl
@[simp] theorem enterArbiter_refused (s : State) :
    (enterArbiter s).refused = s.refused := rfl
@[simp] theorem enterArbiter_refuseReason (s : State) :
    (enterArbiter s).refuseReason = s.refuseReason := rfl
@[simp] theorem enterArbiter_tx (s : State) :
    (enterArbiter s).tx = s.tx := rfl
@[simp] theorem enterArbiter_rd (s : State) :
    (enterArbiter s).rd = s.rd := rfl
@[simp] theorem enterArbiter_acks (s : State) :
    (enterArbiter s).acks = s.acks := rfl
@[simp] theorem enterArbiter_starts (s : State) :
    (enterArbiter s).starts = s.starts := rfl
@[simp] theorem enterArbiter_labels (s : State) :
    (enterArbiter s).labels = s.labels := rfl
@[simp] theorem enterArbiter_draws (s : State) :
    (enterArbiter s).draws = s.draws := rfl

/-! The fields after `leaveArbiter` (41_arbiter.md R86). -/

@[simp] theorem leaveArbiter_par (s : State) :
    (leaveArbiter s).par = s.par := rfl
@[simp] theorem leaveArbiter_active (s : State) :
    (leaveArbiter s).active = s.active := rfl
@[simp] theorem leaveArbiter_cfgErr (s : State) :
    (leaveArbiter s).cfgErr = s.cfgErr := rfl
@[simp] theorem leaveArbiter_busy (s : State) :
    (leaveArbiter s).busy = false := rfl
@[simp] theorem leaveArbiter_sel (s : State) :
    (leaveArbiter s).sel = s.sel := rfl
@[simp] theorem leaveArbiter_selValid (s : State) :
    (leaveArbiter s).selValid = s.selValid := rfl
@[simp] theorem leaveArbiter_idx (s : State) :
    (leaveArbiter s).idx = 0#16 := rfl
@[simp] theorem leaveArbiter_cmplFlag (s : State) :
    (leaveArbiter s).cmplFlag = false := rfl
@[simp] theorem leaveArbiter_inPtr (s : State) :
    (leaveArbiter s).inPtr = s.inPtr := rfl
@[simp] theorem leaveArbiter_teHalf (s : State) :
    (leaveArbiter s).teHalf = s.teHalf := rfl
@[simp] theorem leaveArbiter_tePos (s : State) :
    (leaveArbiter s).tePos = s.tePos := rfl
@[simp] theorem leaveArbiter_inBase (s : State) :
    (leaveArbiter s).inBase = s.inBase := rfl
@[simp] theorem leaveArbiter_outBase (s : State) :
    (leaveArbiter s).outBase = s.outBase := rfl
@[simp] theorem leaveArbiter_inCh (s : State) :
    (leaveArbiter s).inCh = s.inCh := rfl
@[simp] theorem leaveArbiter_sampleRate (s : State) :
    (leaveArbiter s).sampleRate = s.sampleRate := rfl
@[simp] theorem leaveArbiter_bitDepth (s : State) :
    (leaveArbiter s).bitDepth = s.bitDepth := rfl
@[simp] theorem leaveArbiter_clkMult (s : State) :
    (leaveArbiter s).clkMult = s.clkMult := rfl
@[simp] theorem leaveArbiter_pins (s : State) :
    (leaveArbiter s).pins = s.pins := rfl
@[simp] theorem leaveArbiter_sclkOutEn (s : State) :
    (leaveArbiter s).sclkOutEn = s.sclkOutEn := rfl
@[simp] theorem leaveArbiter_mem (s : State) :
    (leaveArbiter s).mem = s.mem := rfl
@[simp] theorem leaveArbiter_ownViol (s : State) :
    (leaveArbiter s).ownViol = s.ownViol := rfl
@[simp] theorem leaveArbiter_evtLost (s : State) :
    (leaveArbiter s).evtLost = s.evtLost := rfl
@[simp] theorem leaveArbiter_altBreak (s : State) :
    (leaveArbiter s).altBreak = s.altBreak := rfl
@[simp] theorem leaveArbiter_refused (s : State) :
    (leaveArbiter s).refused = s.refused := rfl
@[simp] theorem leaveArbiter_refuseReason (s : State) :
    (leaveArbiter s).refuseReason = s.refuseReason := rfl
@[simp] theorem leaveArbiter_tx (s : State) :
    (leaveArbiter s).tx = s.tx := rfl
@[simp] theorem leaveArbiter_rd (s : State) :
    (leaveArbiter s).rd = s.rd := rfl
@[simp] theorem leaveArbiter_acks (s : State) :
    (leaveArbiter s).acks = s.acks ++ [ackMask s.inCh] := rfl
@[simp] theorem leaveArbiter_starts (s : State) :
    (leaveArbiter s).starts = s.starts := rfl
@[simp] theorem leaveArbiter_labels (s : State) :
    (leaveArbiter s).labels = s.labels := rfl
@[simp] theorem leaveArbiter_draws (s : State) :
    (leaveArbiter s).draws = s.draws := rfl

/-! The fields after `takeLabels` (30_encoding.md R60). -/

@[simp] theorem takeLabels_par (rest : List Word) (s : State) :
    (takeLabels rest s).par = s.par := rfl
@[simp] theorem takeLabels_active (rest : List Word) (s : State) :
    (takeLabels rest s).active = s.active := rfl
@[simp] theorem takeLabels_cfgErr (rest : List Word) (s : State) :
    (takeLabels rest s).cfgErr = s.cfgErr := rfl
@[simp] theorem takeLabels_busy (rest : List Word) (s : State) :
    (takeLabels rest s).busy = s.busy := rfl
@[simp] theorem takeLabels_sel (rest : List Word) (s : State) :
    (takeLabels rest s).sel = s.sel := rfl
@[simp] theorem takeLabels_selValid (rest : List Word) (s : State) :
    (takeLabels rest s).selValid = s.selValid := rfl
@[simp] theorem takeLabels_idx (rest : List Word) (s : State) :
    (takeLabels rest s).idx = s.idx := rfl
@[simp] theorem takeLabels_cmplFlag (rest : List Word) (s : State) :
    (takeLabels rest s).cmplFlag = s.cmplFlag := rfl
@[simp] theorem takeLabels_inPtr (rest : List Word) (s : State) :
    (takeLabels rest s).inPtr = s.inPtr := rfl
@[simp] theorem takeLabels_teHalf (rest : List Word) (s : State) :
    (takeLabels rest s).teHalf = s.teHalf := rfl
@[simp] theorem takeLabels_tePos (rest : List Word) (s : State) :
    (takeLabels rest s).tePos = s.tePos := rfl
@[simp] theorem takeLabels_inBase (rest : List Word) (s : State) :
    (takeLabels rest s).inBase = s.inBase := rfl
@[simp] theorem takeLabels_outBase (rest : List Word) (s : State) :
    (takeLabels rest s).outBase = s.outBase := rfl
@[simp] theorem takeLabels_inCh (rest : List Word) (s : State) :
    (takeLabels rest s).inCh = s.inCh := rfl
@[simp] theorem takeLabels_sampleRate (rest : List Word) (s : State) :
    (takeLabels rest s).sampleRate = s.sampleRate := rfl
@[simp] theorem takeLabels_bitDepth (rest : List Word) (s : State) :
    (takeLabels rest s).bitDepth = s.bitDepth := rfl
@[simp] theorem takeLabels_clkMult (rest : List Word) (s : State) :
    (takeLabels rest s).clkMult = s.clkMult := rfl
@[simp] theorem takeLabels_pins (rest : List Word) (s : State) :
    (takeLabels rest s).pins = s.pins := rfl
@[simp] theorem takeLabels_sclkOutEn (rest : List Word) (s : State) :
    (takeLabels rest s).sclkOutEn = s.sclkOutEn := rfl
@[simp] theorem takeLabels_mem (rest : List Word) (s : State) :
    (takeLabels rest s).mem = s.mem := rfl
@[simp] theorem takeLabels_ownViol (rest : List Word) (s : State) :
    (takeLabels rest s).ownViol = s.ownViol := rfl
@[simp] theorem takeLabels_evtLost (rest : List Word) (s : State) :
    (takeLabels rest s).evtLost = s.evtLost := rfl
@[simp] theorem takeLabels_altBreak (rest : List Word) (s : State) :
    (takeLabels rest s).altBreak = s.altBreak := rfl
@[simp] theorem takeLabels_refused (rest : List Word) (s : State) :
    (takeLabels rest s).refused = s.refused := rfl
@[simp] theorem takeLabels_refuseReason (rest : List Word) (s : State) :
    (takeLabels rest s).refuseReason = s.refuseReason := rfl
@[simp] theorem takeLabels_tx (rest : List Word) (s : State) :
    (takeLabels rest s).tx = s.tx := rfl
@[simp] theorem takeLabels_rd (rest : List Word) (s : State) :
    (takeLabels rest s).rd = s.rd := rfl
@[simp] theorem takeLabels_acks (rest : List Word) (s : State) :
    (takeLabels rest s).acks = s.acks := rfl
@[simp] theorem takeLabels_starts (rest : List Word) (s : State) :
    (takeLabels rest s).starts = s.starts := rfl
@[simp] theorem takeLabels_labels (rest : List Word) (s : State) :
    (takeLabels rest s).labels = rest := rfl
@[simp] theorem takeLabels_draws (rest : List Word) (s : State) :
    (takeLabels rest s).draws = s.draws := rfl

/-! The fields after `monitor` (41_arbiter.md R87). -/

@[simp] theorem monitor_par (s : State) :
    (monitor s).par = s.par := by
  unfold monitor; split <;> rfl
@[simp] theorem monitor_active (s : State) :
    (monitor s).active = s.active := by
  unfold monitor; split <;> rfl
@[simp] theorem monitor_cfgErr (s : State) :
    (monitor s).cfgErr = s.cfgErr := by
  unfold monitor; split <;> rfl
@[simp] theorem monitor_busy (s : State) :
    (monitor s).busy = s.busy := by
  unfold monitor; split <;> rfl
@[simp] theorem monitor_sel (s : State) :
    (monitor s).sel = s.sel := by
  unfold monitor; split <;> rfl
@[simp] theorem monitor_selValid (s : State) :
    (monitor s).selValid = s.selValid := by
  unfold monitor; split <;> rfl
@[simp] theorem monitor_idx (s : State) :
    (monitor s).idx = s.idx := by
  unfold monitor; split <;> rfl
@[simp] theorem monitor_cmplFlag (s : State) :
    (monitor s).cmplFlag = s.cmplFlag := by
  unfold monitor; split <;> rfl
@[simp] theorem monitor_inPtr (s : State) :
    (monitor s).inPtr = s.inPtr := by
  unfold monitor; split <;> rfl
@[simp] theorem monitor_teHalf (s : State) :
    (monitor s).teHalf = s.teHalf := by
  unfold monitor; split <;> rfl
@[simp] theorem monitor_tePos (s : State) :
    (monitor s).tePos = s.tePos := by
  unfold monitor; split <;> rfl
@[simp] theorem monitor_inBase (s : State) :
    (monitor s).inBase = s.inBase := by
  unfold monitor; split <;> rfl
@[simp] theorem monitor_outBase (s : State) :
    (monitor s).outBase = s.outBase := by
  unfold monitor; split <;> rfl
@[simp] theorem monitor_inCh (s : State) :
    (monitor s).inCh = s.inCh := by
  unfold monitor; split <;> rfl
@[simp] theorem monitor_sampleRate (s : State) :
    (monitor s).sampleRate = s.sampleRate := by
  unfold monitor; split <;> rfl
@[simp] theorem monitor_bitDepth (s : State) :
    (monitor s).bitDepth = s.bitDepth := by
  unfold monitor; split <;> rfl
@[simp] theorem monitor_clkMult (s : State) :
    (monitor s).clkMult = s.clkMult := by
  unfold monitor; split <;> rfl
@[simp] theorem monitor_pins (s : State) :
    (monitor s).pins = s.pins := by
  unfold monitor; split <;> rfl
@[simp] theorem monitor_sclkOutEn (s : State) :
    (monitor s).sclkOutEn = s.sclkOutEn := by
  unfold monitor; split <;> rfl
@[simp] theorem monitor_mem (s : State) :
    (monitor s).mem = s.mem := by
  unfold monitor; split <;> rfl
@[simp] theorem monitor_ownViol (s : State) :
    (monitor s).ownViol = (s.ownViol || ownViolNow s) := by
  unfold monitor; split <;> simp_all
@[simp] theorem monitor_evtLost (s : State) :
    (monitor s).evtLost = s.evtLost := by
  unfold monitor; split <;> rfl
@[simp] theorem monitor_altBreak (s : State) :
    (monitor s).altBreak = s.altBreak := by
  unfold monitor; split <;> rfl
@[simp] theorem monitor_refused (s : State) :
    (monitor s).refused = s.refused := by
  unfold monitor; split <;> rfl
@[simp] theorem monitor_refuseReason (s : State) :
    (monitor s).refuseReason = s.refuseReason := by
  unfold monitor; split <;> rfl
@[simp] theorem monitor_tx (s : State) :
    (monitor s).tx = s.tx := by
  unfold monitor; split <;> rfl
@[simp] theorem monitor_rd (s : State) :
    (monitor s).rd = s.rd := by
  unfold monitor; split <;> rfl
@[simp] theorem monitor_acks (s : State) :
    (monitor s).acks = s.acks := by
  unfold monitor; split <;> rfl
@[simp] theorem monitor_starts (s : State) :
    (monitor s).starts = s.starts := by
  unfold monitor; split <;> rfl
@[simp] theorem monitor_labels (s : State) :
    (monitor s).labels = s.labels := by
  unfold monitor; split <;> rfl
@[simp] theorem monitor_draws (s : State) :
    (monitor s).draws = s.draws := by
  unfold monitor; split <;> rfl

/-- The first refusal's reason is kept (10_state.md R34). -/
theorem refuse_refuseReason (reason : RefuseReason) (s : State) :
    (refuse reason s).refuseReason = some (s.refuseReason.getD reason) := by
  cases h : s.refuseReason <;> simp [refuse, h]

/-- The monitor as one record update (41_arbiter.md R87). -/
theorem monitor_eq (s : State) :
    monitor s = { s with ownViol := s.ownViol || ownViolNow s } := by
  unfold monitor
  split
  · simp_all
  · simp_all

end Sys2Proof.Machine
end

