-- ==== Sys2Proof/Laws/Ops.lean ====
section
/-! SUPPORT. One lemma for each shared operation that says once everything it can do. -/

namespace Sys2Proof

/-- N is at least 1 (00_scope.md R8). -/
theorem Params.n_pos (p : Params) : 0 < p.n := by simp [Params.n]

/-- N is at most 32768 (00_scope.md R8). -/
theorem Params.n_le (p : Params) : p.n ≤ 32768 := by
  have := p.framesPred.isLt
  simp only [Params.n]
  omega

end Sys2Proof

namespace Sys2Proof.Machine

/-! Sample addresses (20_memory.md R40). -/

theorem saddr_right (p : Params) (base : Word) (h : Half) (i : Nat) :
    saddr p base h i 1 = saddr p base h i 0 + 4 := by
  simp only [saddr]; omega

theorem saddr_half0 (p : Params) (base : Word) (i c : Nat) :
    saddr p base .half0 i c = base.toNat + 4 * (2 * i + c) := by
  simp [saddr, Half.index]

theorem saddr_half1 (p : Params) (base : Word) (i c : Nat) :
    saddr p base .half1 i c = base.toNat + 4 * (2 * p.n + 2 * i + c) := by
  simp [saddr, Half.index]

/-- A sample of a frame below N ends inside its region. -/
theorem saddr_le (p : Params) (base : Word) (h : Half) {i c : Nat} (hi : i < p.n) (hc : c < 2) :
    base.toNat ≤ saddr p base h i c ∧ saddr p base h i c + 4 ≤ base.toNat + 16 * p.n := by
  cases h
  · rw [saddr_half0]; omega
  · rw [saddr_half1]; omega

/-! Register offsets. -/

/-- Past the last mapped word there is no register (10_state.md R28). -/
theorem regOperand_none {widx : BitVec 8} (h : 11 ≤ widx.toNat) : regOperand widx = none := by
  have ne : ∀ off, off ≤ 40 → regOffset widx ≠ off := by
    intro off hoff
    simp only [regOffset]
    omega
  simp [regOperand, regOfOffset, ne]

/-- A register is named only by a WIDX of 0 to 10. -/
theorem regOperand_some {widx : BitVec 8} {reg : Reg} (h : regOperand widx = some reg) :
    widx.toNat ≤ 10 := by
  by_contra hn
  rw [regOperand_none (by omega)] at h
  cases h

/-! Memory accesses. -/

/-- Everything a read can do (20_memory.md R41): the written word and no change, or a draw. -/
theorem memRead_cases (a : Nat) (s : State) :
    (∃ w, s.wordAt a = some w ∧ memRead a s = (w, s))
      ∨ (s.wordAt a = none
        ∧ memRead a s = (Config.draw s.draws, { s with draws := s.draws + 1 })) := by
  unfold memRead
  split
  · next w h => exact .inl ⟨w, h, rfl⟩
  · next h => exact .inr ⟨h, rfl⟩

/-- A read of a written word gives it and changes nothing. -/
theorem memRead_written {a : Nat} {s : State} {w : Word} (h : s.wordAt a = some w) :
    memRead a s = (w, s) := by
  simp [memRead, h]

/-- Everything a frame read can do: only the draw counter can move, and a written sample is the one
read. -/
theorem readFrame_spec (base : Word) (h : Half) (i : Nat) (s : State) :
    ∃ f d, readFrame base h i s = (f, { s with draws := d })
      ∧ (∀ l, s.wordAt (saddr s.par base h i 0) = some l → f.l = l)
      ∧ (∀ r, s.wordAt (saddr s.par base h i 1) = some r → f.r = r) := by
  unfold readFrame
  rcases memRead_cases (saddr s.par base h i 0) s with ⟨l, hl, e⟩ | ⟨hl, e⟩ <;> simp only [e]
  · rcases memRead_cases (saddr s.par base h i 1) s with ⟨r, hr, e'⟩ | ⟨hr, e'⟩ <;> simp only [e']
    · exact ⟨_, s.draws, rfl, by simp [hl], by simp [hr]⟩
    · exact ⟨_, s.draws + 1, rfl, by simp [hl], by simp [hr]⟩
  · rcases memRead_cases (saddr s.par base h i 1) { s with draws := s.draws + 1 } with
      ⟨r, hr, e'⟩ | ⟨hr, e'⟩ <;> simp only [e']
    · refine ⟨_, s.draws + 1, rfl, by simp [hl], fun r' h' => ?_⟩
      have hr' : s.wordAt (saddr s.par base h i 1) = some r := hr
      simpa using hr'.symm.trans h'
    · refine ⟨_, s.draws + 1 + 1, rfl, by simp [hl], fun r' h' => ?_⟩
      have hr' : s.wordAt (saddr s.par base h i 1) = none := hr
      simp [hr'] at h'

/-- A frame whose two words are written is read as it stands, and nothing changes. -/
theorem readFrame_written {base : Word} {h : Half} {i : Nat} {s : State} {f : Frame}
    (hf : s.frameAt base h i = some f) : readFrame base h i s = (f, s) := by
  unfold State.frameAt at hf
  split at hf
  · next l r hl hr =>
    injection hf with hf
    subst hf
    simp only [readFrame, memRead_written hl, memRead_written hr]
  · cases hf

/-- A frame write changes memory alone. -/
theorem writeFrame_eq (base : Word) (h : Half) (i : Nat) (f : Frame) (s : State) :
    writeFrame base h i f s = { s with mem := (writeFrame base h i f s).mem } := rfl

/-- The draw counter and the frame written do not meet. -/
theorem writeFrame_mem_draws (base : Word) (h : Half) (i : Nat) (f : Frame) (s : State) (d : Nat) :
    (writeFrame base h i f { s with draws := d }).mem = (writeFrame base h i f s).mem := rfl

/-- A byte outside a written frame's eight bytes reads as before. -/
theorem writeFrame_byteAt_other {base : Word} {h : Half} {i : Nat} {f : Frame} {s : State} {c : Nat}
    (ha : saddr s.par base h i 1 + 4 ≤ 2 ^ 32)
    (hc : c < saddr s.par base h i 0 ∨ saddr s.par base h i 0 + 8 ≤ c) :
    (writeFrame base h i f s).byteAt c = s.byteAt c := by
  have hr := saddr_right s.par base h i
  simp only [State.byteAt, writeFrame, memWrite]
  rw [Memory.byteAt_writeWord_other ha (by omega),
    Memory.byteAt_writeWord_other (by omega) (by omega)]

/-- The frame just written is read back. -/
theorem writeFrame_frameAt_same {base : Word} {h : Half} {i : Nat} (f : Frame) {s : State}
    (ha : saddr s.par base h i 1 + 4 ≤ 2 ^ 32) :
    (writeFrame base h i f s).frameAt base h i = some f := by
  have hr := saddr_right s.par base h i
  simp only [State.frameAt, State.wordAt, writeFrame, memWrite]
  rw [Memory.readWord_writeWord_other ha (by omega) (by omega)]
  simp

/-- A frame apart from the one written reads as before. -/
theorem writeFrame_frameAt_other {base b' : Word} {h h' : Half} {i j : Nat} {f : Frame} {s : State}
    (ha : saddr s.par base h i 1 + 4 ≤ 2 ^ 32) (hb : saddr s.par b' h' j 1 + 4 ≤ 2 ^ 32)
    (hc : saddr s.par b' h' j 0 + 8 ≤ saddr s.par base h i 0
      ∨ saddr s.par base h i 0 + 8 ≤ saddr s.par b' h' j 0) :
    (writeFrame base h i f s).frameAt b' h' j = s.frameAt b' h' j := by
  have hr := saddr_right s.par base h i
  have hr' := saddr_right s.par b' h' j
  have e : ∀ c, saddr s.par b' h' j 0 ≤ c → c + 4 ≤ saddr s.par b' h' j 0 + 8 →
      (writeFrame base h i f s).wordAt c = s.wordAt c := by
    intro c h1 h2
    simp only [State.wordAt, writeFrame, memWrite]
    rw [Memory.readWord_writeWord_other ha (by omega) (by omega),
      Memory.readWord_writeWord_other (by omega) (by omega) (by omega)]
  have hp : (writeFrame base h i f s).par = s.par := rfl
  simp only [State.frameAt, hp]
  rw [e _ (by omega) (by omega), e _ (by omega) (by omega)]

/-- A frame write keeps memory's canonical form. -/
theorem writeFrame_wf {base : Word} {h : Half} {i : Nat} {f : Frame} {s : State}
    (hm : Memory.wf s.mem = true) : Memory.wf (writeFrame base h i f s).mem = true :=
  Memory.wf_writeWord (Memory.wf_writeWord hm)

/-! Registers and START. -/

/-- Only configuration registers change in a register store (42_session.md R95). -/
theorem storeReg_frame (reg : Reg) (data : Word) (s : State) :
    ∃ ib ob ch sr bd cm pn en, storeReg reg data s =
      { s with inBase := ib, outBase := ob, inCh := ch, sampleRate := sr, bitDepth := bd,
               clkMult := cm, pins := pn, sclkOutEn := en } := by
  cases reg <;> exact ⟨_, _, _, _, _, _, _, _, rfl⟩

/-- `start_ok()` is the list of 42_session.md R98, bit for bit. -/
theorem startOk_eq (s : State) : startOk s =
    (decide (s.inBase.toNat % s.par.bufAlign = 0)
      && decide (s.outBase.toNat % s.par.bufAlign = 0)
      && decide (s.inBase.toNat + s.par.splitBytes ≤ 2 ^ 32)
      && decide (s.outBase.toNat + s.par.splitBytes ≤ 2 ^ 32)
      && (decide (s.inBase.toNat + s.par.splitBytes ≤ s.outBase.toNat)
        || decide (s.outBase.toNat + s.par.splitBytes ≤ s.inBase.toNat))
      && decide (s.inCh.toNat < s.par.numCh)
      && cfgValid s) := rfl

/-- Everything START can do when it is not refused (42_session.md R97). -/
theorem start_ok {s t : State} (h : start s = .ok t) :
    s.active = false ∧ s.cfgErr = false ∧ (s.par.bench = false → s.par.ptrAlt ≠ s.inBase)
      ∧ ((startOk s = true ∧ t = startStreaming s)
        ∨ (startOk s = false ∧ t = { s with cfgErr := true })) := by
  unfold start at h
  split at h
  · cases h
  · next hlock =>
    simp only [Bool.or_eq_true, not_or, Bool.not_eq_true] at hlock
    split at h
    · cases h
    · next hptr =>
      simp only [Bool.and_eq_true, Bool.not_eq_true', decide_eq_true_eq, not_and] at hptr
      split at h
      · next hok =>
        injection h with h
        exact ⟨hlock.1, hlock.2, hptr, .inl ⟨hok, h.symm⟩⟩
      · next hok =>
        injection h with h
        exact ⟨hlock.1, hlock.2, hptr, .inr ⟨by simpa using hok, h.symm⟩⟩

/-- A streaming start in bench mode (42_session.md R97). -/
theorem startStreaming_bench {s : State} (h : s.par.bench = true) :
    startStreaming s = { s with active := true, cmplFlag := false, starts := s.starts + 1 } := by
  simp [startStreaming, startEngine, h]

/-- A streaming start with the transfer engine (42_session.md R97). -/
theorem startStreaming_engine {s : State} (h : s.par.bench = false) :
    startStreaming s =
      { s with
        active := true
        cmplFlag := false
        starts := s.starts + 1
        teHalf := s.par.startHalf
        tePos := 0#16
        inPtr := ptrWhileFilling s.par.startHalf s } := by
  cases hs : s.par.startHalf <;> simp [startStreaming, startEngine, h, hs, ptrWhileFilling]

/-- Everything a register write can do when it is not refused (42_session.md R95). -/
theorem writeReg_ok {reg : Reg} {data : Word} {s t : State} (h : writeReg reg data s = .ok t) :
    t = s ∨ (s.active = false ∧ s.cfgErr = false ∧ t = storeReg reg data s)
      ∨ (reg = .ctrl ∧ data.getLsbD 0 = true ∧ start s = .ok t) := by
  have locked : ∀ r, writeLocked r data s = .ok t →
      s.active = false ∧ s.cfgErr = false ∧ t = storeReg r data s := by
    intro r hr
    unfold writeLocked at hr
    split at hr
    · cases hr
    · next hl =>
      simp only [Bool.or_eq_true, not_or, Bool.not_eq_true] at hl
      injection hr with hr
      exact ⟨hl.1, hl.2, hr.symm⟩
  cases reg with
  | ctrl =>
    simp only [writeReg] at h
    split at h
    · next hd => exact .inr (.inr ⟨rfl, hd, h⟩)
    · injection h with h; exact .inl h.symm
  | status => simp only [writeReg, Except.ok.injEq] at h; exact .inl h.symm
  | frames => simp only [writeReg, Except.ok.injEq] at h; exact .inl h.symm
  | inBase => exact .inr (.inl (locked .inBase h))
  | outBase => exact .inr (.inl (locked .outBase h))
  | inCh => exact .inr (.inl (locked .inCh h))
  | sampleRate => exact .inr (.inl (locked .sampleRate h))
  | bitDepth => exact .inr (.inl (locked .bitDepth h))
  | clkMult => exact .inr (.inl (locked .clkMult h))
  | pins => exact .inr (.inl (locked .pins h))
  | sclkOutEn => exact .inr (.inl (locked .sclkOutEn h))

/-! Outcomes. -/

theorem requestOutcome_next {s t : State} {e : Except RefuseReason State}
    (h : requestOutcome s e = .next t) :
    (∃ u, e = .ok u ∧ t = monitor u) ∨ (∃ r, e = .error r ∧ t = refuse r s) := by
  cases e with
  | ok u => injection h with h; exact .inl ⟨u, rfl, h.symm⟩
  | error r => injection h with h; exact .inr ⟨r, rfl, h.symm⟩

end Sys2Proof.Machine
end

