-- ==== Sys2Proof/Laws/Exec.lean ====
section
/-! SUPPORT. Everything a step can do, said once: a refusal, or one of the effects below followed by the monitor; every claim about all steps goes by cases on these. -/

namespace Sys2Proof.Machine

/-- Everything the transform of a frame can do (41_arbiter.md R83). -/
theorem transformFrame_spec (i : Nat) (s : State) :
    ∃ f d, (∀ l, s.wordAt (saddr s.par s.inBase s.sel i 0) = some l → f.l = l)
      ∧ (∀ r, s.wordAt (saddr s.par s.inBase s.sel i 1) = some r → f.r = r)
      ∧ transformFrame i s = { s with
        mem := (writeFrame s.outBase s.sel i (xform s.par f) s).mem
        draws := d
        idx := BitVec.ofNat 16 (i + 1) } := by
  obtain ⟨f, d, e, hl, hr⟩ := readFrame_spec s.inBase s.sel i s
  refine ⟨f, d, hl, hr, ?_⟩
  simp only [transformFrame, e]
  rfl

/-- Everything the engine's advance can do (43_transfer_interface.md R108). -/
theorem advanceEngine_cases (s : State) :
    (s.tePos.toNat + 1 < s.par.n
        ∧ advanceEngine s = { s with tePos := BitVec.ofNat 16 (s.tePos.toNat + 1) })
      ∨ (¬ s.tePos.toNat + 1 < s.par.n
        ∧ advanceEngine s = { s with
          tePos := 0#16
          teHalf := s.teHalf.other
          inPtr := ptrWhileFilling s.teHalf.other s
          evtLost := s.evtLost || s.cmplFlag
          cmplFlag := true }) := by
  unfold advanceEngine
  split
  · next h => exact .inl ⟨h, rfl⟩
  · next h => exact .inr ⟨h, rfl⟩

/-- Everything a frame move can do (43_transfer_interface.md R108). -/
theorem moveFrame_spec (f : Frame) (s : State) :
    ∃ sent d, (∀ l, (writeFrame s.inBase s.teHalf s.tePos.toNat f s).wordAt
          (saddr s.par s.outBase s.teHalf s.tePos.toNat 0) = some l → sent.l = l)
      ∧ (∀ r, (writeFrame s.inBase s.teHalf s.tePos.toNat f s).wordAt
          (saddr s.par s.outBase s.teHalf s.tePos.toNat 1) = some r → sent.r = r)
      ∧ moveFrame f s = advanceEngine { s with
        mem := (writeFrame s.inBase s.teHalf s.tePos.toNat f s).mem
        draws := d
        tx := s.tx ++ [sent] } := by
  obtain ⟨sent, d, e, hl, hr⟩ := readFrame_spec s.outBase s.teHalf s.tePos.toNat
    (writeFrame s.inBase s.teHalf s.tePos.toNat f s)
  refine ⟨sent, d, hl, hr, ?_⟩
  simp only [moveFrame, e]
  rfl

/-- The effects a step that is taken can have, before the monitor. -/
inductive Effect : Instr → State → State → Prop
  | idled {s : State} : Effect .hostIdle s s
  | readBack {widx : BitVec 8} {reg : Reg} {s : State} (hreg : regOperand widx = some reg) :
      Effect (.regRead widx) s { s with rd := s.rd ++ [readReg reg s] }
  | ignored {widx : BitVec 8} {data : Word} {reg : Reg} {s : State}
      (hreg : regOperand widx = some reg) : Effect (.regWrite widx data) s s
  | stored {widx : BitVec 8} {data : Word} {reg : Reg} {s : State}
      (hreg : regOperand widx = some reg) (hactive : s.active = false) (herr : s.cfgErr = false) :
      Effect (.regWrite widx data) s (storeReg reg data s)
  | started {widx : BitVec 8} {data : Word} {s : State} (hreg : regOperand widx = some .ctrl)
      (hbit : data.getLsbD 0 = true) (hactive : s.active = false) (herr : s.cfgErr = false)
      (hptr : s.par.bench = false → s.par.ptrAlt ≠ s.inBase) (hok : startOk s = true) :
      Effect (.regWrite widx data) s (startStreaming s)
  | startFailed {widx : BitVec 8} {data : Word} {s : State} (hreg : regOperand widx = some .ctrl)
      (hbit : data.getLsbD 0 = true) (hactive : s.active = false) (herr : s.cfgErr = false)
      (hptr : s.par.bench = false → s.par.ptrAlt ≠ s.inBase) (hok : startOk s = false) :
      Effect (.regWrite widx data) s { s with cfgErr := true }
  | sampled {s : State} (hactive : s.active = true) (hbusy : s.busy = false)
      (hflag : s.cmplFlag = true) : Effect .arbSample s (enterArbiter s)
  | transformed {fidx : BitVec 16} {s : State} (f : Frame) (d : Nat) (hbusy : s.busy = true)
      (hidx : s.idx = fidx) (hlt : fidx.toNat < s.par.n)
      (hl : ∀ l, s.wordAt (saddr s.par s.inBase s.sel fidx.toNat 0) = some l → f.l = l)
      (hr : ∀ r, s.wordAt (saddr s.par s.inBase s.sel fidx.toNat 1) = some r → f.r = r) :
      Effect (.arbXframe fidx) s { s with
        mem := (writeFrame s.outBase s.sel fidx.toNat (xform s.par f) s).mem
        draws := d
        idx := BitVec.ofNat 16 (fidx.toNat + 1) }
  | acked {s : State} (hbusy : s.busy = true) (hidx : s.idx.toNat = s.par.n) :
      Effect .arbAck s (leaveArbiter s)
  | moved {rxl rxr : Word} {s : State} (sent : Frame) (d : Nat) (hbench : s.par.bench = false)
      (hactive : s.active = true)
      (hl : ∀ l, (writeFrame s.inBase s.teHalf s.tePos.toNat { l := rxl, r := rxr } s).wordAt
          (saddr s.par s.outBase s.teHalf s.tePos.toNat 0) = some l → sent.l = l)
      (hr : ∀ r, (writeFrame s.inBase s.teHalf s.tePos.toNat { l := rxl, r := rxr } s).wordAt
          (saddr s.par s.outBase s.teHalf s.tePos.toNat 1) = some r → sent.r = r) :
      Effect (.teStep rxl rxr) s (advanceEngine { s with
        mem := (writeFrame s.inBase s.teHalf s.tePos.toNat { l := rxl, r := rxr } s).mem
        draws := d
        tx := s.tx ++ [sent] })
  | loaded {buf : Buf} {kidx value : Word} {s : State}
      (hno : benchLoadRefusal buf kidx s = none) :
      Effect (.benchLoad buf kidx value) s { s with
        mem := Memory.writeWord s.par.byteOrder s.mem (benchAddr (bufBase buf s) kidx) value }
  | raised {ptr : Word} {s : State} (hbench : s.par.bench = true) (hactive : s.active = true) :
      Effect (.benchRaise ptr) s (raiseCompletion ptr s)

/-- A bench raise that is not refused (43_transfer_interface.md R113). -/
theorem benchRaiseRefusal_none {s : State} (h : benchRaiseRefusal s = none) :
    s.par.bench = true ∧ s.active = true := by
  unfold benchRaiseRefusal at h
  split at h
  · cases h
  · split at h
    · cases h
    · simp_all

/-- A bench load that is not refused (43_transfer_interface.md R114). -/
theorem benchLoadRefusal_none {buf : Buf} {kidx : Word} {s : State}
    (h : benchLoadRefusal buf kidx s = none) :
    s.par.bench = true ∧ kidx.toNat < 4 * s.par.n ∧ benchAddr (bufBase buf s) kidx < 2 ^ 32
      ∧ (s.busy = true → halfOfSample s.par kidx ≠ s.sel.index) := by
  unfold benchLoadRefusal at h
  split at h
  · cases h
  · next hb =>
    split at h
    · cases h
    · next hk =>
      split at h
      · cases h
      · next ha =>
        split at h
        · cases h
        · next ho =>
          refine ⟨by simpa using hb, by omega, by omega, ?_⟩
          intro hbusy heq
          simp [hbusy, heq] at ho

/-- Everything a step can do: a next state is a refusal's, or an effect's followed by the monitor. -/
theorem exec_next {i : Instr} {s t : State} (h : exec i s = .next t) :
    (∃ reason, t = refuse reason s) ∨ (∃ u, Effect i s u ∧ t = monitor u) := by
  cases i with
  | hostIdle =>
    simp only [exec, execHostIdle, taken, Host.Outcome.next.injEq] at h
    exact .inr ⟨s, .idled, h.symm⟩
  | regRead widx =>
    simp only [exec, execRegRead] at h
    split at h
    · injection h with h; exact .inl ⟨_, h.symm⟩
    · next reg hreg => injection h with h; exact .inr ⟨_, .readBack hreg, h.symm⟩
  | regWrite widx data =>
    simp only [exec, execRegWrite] at h
    split at h
    · injection h with h; exact .inl ⟨_, h.symm⟩
    · next reg hreg =>
      rcases requestOutcome_next h with ⟨u, hu, ht⟩ | ⟨r, -, ht⟩
      · rcases writeReg_ok hu with rfl | ⟨ha, he, rfl⟩ | ⟨rfl, hbit, hst⟩
        · exact .inr ⟨_, .ignored hreg, ht⟩
        · exact .inr ⟨_, .stored hreg ha he, ht⟩
        · obtain ⟨ha, he, hp, ⟨hok, rfl⟩ | ⟨hok, rfl⟩⟩ := start_ok hst
          · exact .inr ⟨_, .started hreg hbit ha he hp hok, ht⟩
          · exact .inr ⟨_, .startFailed hreg hbit ha he hp hok, ht⟩
      · exact .inl ⟨r, ht⟩
  | arbSample =>
    simp only [exec, execArbSample] at h
    split at h
    · next hen =>
      injection h with h
      simp only [sampleEnabled, Bool.and_eq_true, Bool.not_eq_true'] at hen
      exact .inr ⟨_, .sampled hen.1.1 hen.1.2 hen.2, h.symm⟩
    · cases h
  | arbXframe fidx =>
    simp only [exec, execArbXframe] at h
    split at h
    · next hen =>
      simp only [xframeEnabled, Bool.and_eq_true, decide_eq_true_eq] at hen
      injection h with h
      obtain ⟨f, d, hl, hr, e⟩ := transformFrame_spec fidx.toNat s
      exact .inr ⟨_, .transformed f d hen.1.1 hen.1.2 hen.2 hl hr, by rw [← h, e]⟩
    · cases h
  | arbAck =>
    simp only [exec, execArbAck] at h
    split at h
    · next hen =>
      injection h with h
      simp only [ackEnabled, Bool.and_eq_true, decide_eq_true_eq] at hen
      exact .inr ⟨_, .acked hen.1 hen.2, h.symm⟩
    · cases h
  | teStep rxl rxr =>
    simp only [exec, execTeStep] at h
    split at h
    · injection h with h; exact .inl ⟨_, h.symm⟩
    · next hb =>
      split at h
      · next hen =>
        injection h with h
        obtain ⟨sent, d, hl, hr, e⟩ := moveFrame_spec { l := rxl, r := rxr } s
        exact .inr ⟨_, .moved sent d (by simpa using hb) hen hl hr, by rw [← h, e]⟩
      · cases h
  | benchLoad buf kidx value =>
    simp only [exec, execBenchLoad] at h
    split at h
    · injection h with h; exact .inl ⟨_, h.symm⟩
    · next hno =>
      injection h with h
      exact .inr ⟨_, .loaded hno, h.symm⟩
  | benchRaise ptr =>
    simp only [exec, execBenchRaise] at h
    split at h
    · injection h with h; exact .inl ⟨_, h.symm⟩
    · next hno =>
      injection h with h
      obtain ⟨hb, ha⟩ := benchRaiseRefusal_none hno
      exact .inr ⟨_, .raised hb ha, h.symm⟩

/-- No effect changes the parameters, and none ends a session (00_scope.md R8; 10_state.md R18). -/
theorem effect_par_active {i : Instr} {s u : State} (h : Effect i s u) :
    u.par = s.par ∧ (s.active = true → u.active = true) := by
  cases h with
  | stored =>
    rename_i widx data reg _ _ _
    obtain ⟨_, _, _, _, _, _, _, _, e⟩ := storeReg_frame reg data s
    rw [e]
    exact ⟨rfl, id⟩
  | started =>
    cases hb : s.par.bench
    · rw [startStreaming_engine hb]
      exact ⟨rfl, fun _ => rfl⟩
    · rw [startStreaming_bench hb]
      exact ⟨rfl, fun _ => rfl⟩
  | moved =>
    rcases advanceEngine_cases _ with ⟨-, e⟩ | ⟨-, e⟩ <;> rw [e] <;> exact ⟨rfl, id⟩
  | _ => exact ⟨rfl, id⟩

/-- Everything `step` can do with a next state: the label at the front runs, or an invalid header is
refused. -/
theorem step_next {s t : State} (h : step s = .next t) :
    (∃ i rest, decode s.labels = .label i rest ∧ exec i (takeLabels rest s) = .next t)
      ∨ (∃ why rest, decode s.labels = .invalid why rest
        ∧ t = refuse .illegalLabel (takeLabels rest s)) := by
  unfold step at h
  split at h
  · next i rest hd => exact .inl ⟨i, rest, hd, h⟩
  · next why rest hd => injection h with h; exact .inr ⟨why, rest, hd, h.symm⟩
  · cases h
  · cases h

end Sys2Proof.Machine
end

