-- ==== Sys2Proof/Laws/PerInstr.lean ====
section
/-! SUPPORT. One statement per operation about its label as words: the encoder's words are a well-formed label by the opcode table's own numbers. -/

namespace Sys2Proof

theorem setWidth_widx_and (x : BitVec 8) : x.setWidth 32 &&& 0xFFFFFF00#32 = 0#32 := by
  revert x; decide

theorem setWidth_fidx_and (x : BitVec 16) : x.setWidth 32 &&& 0xFFFF0000#32 = 0#32 := by
  ext i hi
  simp only [BitVec.getElem_and, BitVec.getElem_setWidth, BitVec.getElem_zero]
  by_cases h : i < 16
  · interval_cases i <;> simp
  · simp [BitVec.getLsbD_of_ge _ _ (Nat.le_of_not_lt h)]

namespace Laws.EncodesWellFormed

/-- The words of `i` are one well-formed label (30_encoding.md R57–R62). -/
def Statement (i : Instr) : Prop := labelWellFormed (encode i) = true

/-- A list whose header a row accepts and whose payload has that row's length is well formed. -/
theorem of_row {h : Word} {payload : List Word} (row : OpcodeRow) (hmem : row ∈ opcodeRows)
    (hacc : row.accepts h = true) (hlen : payload.length = row.payload) :
    labelWellFormed (h :: payload) = true := by
  simp only [labelWellFormed, List.any_eq_true]
  exact ⟨row, hmem, by simp [hacc, hlen]⟩

theorem hostIdle : Statement .hostIdle := rfl

theorem regRead (widx : BitVec 8) : Statement (.regRead widx) := by
  refine of_row { mask := 0xFFFFFF00#32, pattern := 0x01000000#32, payload := 0 } (by decide) ?_ rfl
  simp only [OpcodeRow.accepts, BitVec.and_or_distrib_right, setWidth_widx_and]
  decide

theorem regWrite (widx : BitVec 8) (data : Word) : Statement (.regWrite widx data) := by
  refine of_row { mask := 0xFFFFFF00#32, pattern := 0x02000000#32, payload := 1 } (by decide) ?_ rfl
  simp only [OpcodeRow.accepts, BitVec.and_or_distrib_right, setWidth_widx_and]
  decide

theorem arbSample : Statement .arbSample := rfl

theorem arbXframe (fidx : BitVec 16) : Statement (.arbXframe fidx) := by
  refine of_row { mask := 0xFFFF0000#32, pattern := 0x11000000#32, payload := 0 } (by decide) ?_ rfl
  simp only [OpcodeRow.accepts, BitVec.and_or_distrib_right, setWidth_fidx_and]
  decide

theorem arbAck : Statement .arbAck := rfl

theorem teStep (rxl rxr : Word) : Statement (.teStep rxl rxr) := rfl

theorem benchLoad (buf : Buf) (kidx value : Word) : Statement (.benchLoad buf kidx value) := by
  cases buf <;> rfl

theorem benchRaise (ptr : Word) : Statement (.benchRaise ptr) := rfl

end Laws.EncodesWellFormed

end Sys2Proof
end

