-- ==== Sys2Proof/Tests/Slice0.lean ====
section
/-! SUPPORT. Tests of the model, their expected results taken from spec/ (95_test_vectors.md, 30_encoding.md, 40_transform.md), and a state and operands that meet the hypotheses of each obligation. -/

namespace Sys2Proof.Tests

open Sys2Proof.Machine

/-! ## The parameters and states of 95_test_vectors.md, section 1 -/

/-- Bench mode with N = 2, BUF_ALIGN = 8, NUM_CH = 12. -/
def benchPar : Params where
  framesPred := 1
  alignLog := 1
  numChPred := 11
  blockBase := 0#32
  transform := .reference
  cfgCheck := .acceptAll
  startHalf := .half0
  ptrAlt := 0x20000010#32
  bench := true
  byteOrder := .little

/-- The same with the transfer engine. -/
def tePar : Params := { benchPar with bench := false }

/-- The same with the transfer engine and N = 1. -/
def onePar : Params := { tePar with framesPred := 0 }

/-- Reset, then `CFG`. -/
def cfg (p : Params) : State :=
  { State.resetFor p with
    inBase := 0x20000000#32
    outBase := 0x20000100#32
    inCh := 3#4
    sampleRate := 48000#32
    bitDepth := 16#32
    clkMult := 256#32
    pins := 0x0A090806#32
    sclkOutEn := 1#1 }

/-- `CFG`, then START. -/
def started (p : Params) : State :=
  { cfg p with active := true, starts := 1, inPtr := 0x20000010#32 }

/-- A completion of half 0 waits. -/
def pending (p : Params) : State :=
  { started p with cmplFlag := true, inPtr := 0x20000000#32, teHalf := .half1 }

/-- The arbiter has sampled half 0 and stands at frame `idx`. -/
def processing (p : Params) (idx : BitVec 16) : State :=
  { pending p with sel := .half0, selValid := true, busy := true, idx := idx }

/-- The arbiter stands at frame 0 of half 0, whose frame 0 holds `l` and `r`. -/
def loaded (l r : Word) : State :=
  { processing benchPar 0#16 with
    mem := Memory.writeWord .little (Memory.writeWord .little [] 0x20000000 l) 0x20000004 r }

/-- The engine has one frame left in half 1 and the arbiter is at work on half 0. -/
def closing : State := { processing tePar 1#16 with tePos := 1#16 }

/-- A failed START has latched CFG_ERR. -/
def failed (p : Params) : State := { State.resetFor p with cfgErr := true }

/-- The state with one label placed before the schedule. -/
def withLabel (i : Instr) (s : State) : State := { s with labels := encode i ++ s.labels }

/-- The next state, if there is one. -/
def next? (o : Host.Outcome State Fault Refusal) : Option State :=
  match o with
  | .next t => some t
  | .fault _ => none
  | .refused _ => none

/-- Why there is no next state, if a refusal says so. -/
def refused? (o : Host.Outcome State Fault Refusal) : Option Refusal :=
  match o with
  | .next _ => none
  | .fault _ => none
  | .refused r => some r

/-! ## WellFormed: an ill-formed label for each check -/

/-- No header. -/
theorem test_wf_no_header : labelWellFormed [] = false := by decide

/-- OP 0x13 is reserved (30_encoding.md R63, R65). -/
theorem test_wf_reserved_op : headerWellFormed 0x13000000#32 = false := by decide

/-- A reserved FIDX bit is set (30_encoding.md R62, R65). -/
theorem test_wf_reserved_operand : headerWellFormed 0x11010000#32 = false := by decide

/-- REG_WRITE without its payload word (30_encoding.md R60). -/
theorem test_wf_short_payload : labelWellFormed [0x02000002#32] = false := by decide

/-- ARB_ACK with a payload word (30_encoding.md R60). -/
theorem test_wf_long_payload : labelWellFormed [0x12000000#32, 0#32] = false := by decide

/-- START is a well-formed label (30_encoding.md R65). -/
theorem test_wf_start : labelWellFormed [0x02000000#32, 1#32] = true := by decide

/-! ## Decoding: words written out from 30_encoding.md R57–R59 -/

theorem test_decode_host_idle : decode [0x00000000#32] = .label .hostIdle [] := by decide
theorem test_decode_reg_read : decode [0x010000FF#32] = .label (.regRead 0xFF#8) [] := by decide
theorem test_decode_reg_write :
    decode [0x0200000A#32, 0xFFFFFFFF#32, 7#32] = .label (.regWrite 10#8 0xFFFFFFFF#32) [7#32] := by
  decide
theorem test_decode_arb_sample : decode [0x10000000#32] = .label .arbSample [] := by decide
theorem test_decode_arb_xframe : decode [0x1100FFFF#32] = .label (.arbXframe 0xFFFF#16) [] := by decide
theorem test_decode_arb_ack : decode [0x12000000#32] = .label .arbAck [] := by decide
theorem test_decode_te_step :
    decode [0x20000000#32, 1#32, 2#32] = .label (.teStep 1#32 2#32) [] := by decide
theorem test_decode_bench_load_in :
    decode [0x30000000#32, 7#32, 1#32] = .label (.benchLoad .input 7#32 1#32) [] := by decide
theorem test_decode_bench_load_out :
    decode [0x30000001#32, 5#32, 0x1234#32] = .label (.benchLoad .output 5#32 0x1234#32) [] := by
  decide
theorem test_decode_bench_raise :
    decode [0x31000000#32, 0x20000010#32] = .label (.benchRaise 0x20000010#32) [] := by decide

/-- The invalid headers of 95_test_vectors.md 3.1. -/
theorem test_decode_invalid_headers :
    decode [0x00000001#32] = .invalid .reservedOperand []
    ∧ decode [0x01000100#32] = .invalid .reservedOperand []
    ∧ decode [0x0F000000#32] = .invalid .reservedOp []
    ∧ decode [0x03000000#32] = .invalid .reservedOp []
    ∧ decode [0x10000001#32] = .invalid .reservedOperand []
    ∧ decode [0x20000001#32] = .invalid .reservedOperand []
    ∧ decode [0x30000002#32] = .invalid .reservedOperand []
    ∧ decode [0x31000001#32] = .invalid .reservedOperand []
    ∧ decode [0xFF000000#32] = .invalid .reservedOp [] := by decide

/-- A label that is cut short is no label. -/
theorem test_decode_truncated : decode [0x20000000#32, 1#32] = .truncated := by decide

/-- Row words as opcode_table.json numbers their bits. -/
theorem test_table_words :
    decodeTableWord 32 0x1100FFFF = some (.arbXframe 0xFFFF#16)
    ∧ decodeTableWord 32 0x0200000A = some (.regWrite 10#8 0#32)
    ∧ decodeTableWord 96 0x000000020000000120000000 = some (.teStep 1#32 2#32)
    ∧ decodeTableWord 64 0x0000000530000001 = some (.benchLoad .output 5#32 0#32)
    ∧ decodeTableWord 32 0x13000000 = none := by decide

/-- `withFetchWord` places exactly the label's words. -/
theorem test_with_fetch_word :
    ((State.resetFor tePar).withFetchWord 32 0x31000000).labels = [0x31000000#32, 0#32]
    ∧ ((State.resetFor tePar).withFetchWord 32 0x10000000).labels = [0x10000000#32] := by decide

/-! ## Single steps, from 95_test_vectors.md -/

/-- V-O1: an invalid header is refused, and takes one word. -/
theorem test_step_illegal_label :
    (next? (step { State.resetFor tePar with labels := [0x0F000000#32, 0#32] })).map
      (fun t => (t.refuseReason, t.labels)) = some (some .illegalLabel, [0#32]) := by decide

/-- V-R1, V-R2: IN_CH keeps four bits. -/
theorem test_reg_write_in_ch :
    (next? (exec (.regWrite 5#8 0x35#32) (State.resetFor benchPar))).map
      (fun t => readReg .inCh t) = some 5#32 := by decide

/-- V-R3, V-R4: SCLK_OUT_EN keeps one bit. -/
theorem test_reg_write_sclk :
    (next? (exec (.regWrite 10#8 0xFFFFFFFF#32) (State.resetFor benchPar))).map
      (fun t => readReg .sclkOutEn t) = some 1#32 := by decide

/-- V-A5: STATUS shows 0x2B while half 0 is processed; P2 step 18: 0x2F for half 1; P5: 0x10
after a failed START. -/
theorem test_status_word :
    statusWord (processing benchPar 0#16) = 0x2B#32
    ∧ statusWord { processing benchPar 0#16 with sel := .half1 } = 0x2F#32
    ∧ statusWord (failed benchPar) = 0x10#32 := by decide

/-- START after `CFG` (P2 step 9): the engine is at half 0 and the pointer is PTR_ALT. -/
theorem test_start_engine :
    (next? (exec (.regWrite 0#8 1#32) (cfg tePar))).map
      (fun t => (t.active, t.teHalf, t.inPtr)) = some (true, .half0, 0x20000010#32) := by decide

/-- P5 step 2: a START with both bases 0 fails. -/
theorem test_start_failed :
    (next? (exec (.regWrite 0#8 1#32) (State.resetFor tePar))).map
      (fun t => (t.active, t.cfgErr, t.refused)) = some (false, true, false) := by decide

/-- V-S1, V-S2: only the base of input half 0 selects half 0. -/
theorem test_sample_selects :
    (next? (exec .arbSample (pending benchPar))).map (fun t => t.sel) = some .half0
    ∧ (next? (exec .arbSample { pending benchPar with inPtr := 0x20000010#32 })).map (fun t => t.sel)
      = some .half1 := by decide

/-- P4a: the same half again sets ALT_BREAK. -/
theorem test_sample_same_half :
    (next? (exec .arbSample { pending benchPar with selValid := true })).map
      (fun t => t.altBreak) = some true := by decide

/-- P1: frame 0 of output half 0. -/
theorem test_xframe_transforms :
    (next? (exec (.arbXframe 0#16) (loaded 0x1234ABCD#32 0xFFFFFFFF#32))).map
      (fun t => (t.frameAt t.outBase .half0 0, t.idx))
      = some (some { l := 0x12340000#32, r := 0xFFFF0000#32 }, 1#16) := by decide

/-- V-A7, V-A12: out of order, and at N, the step does not exist. -/
theorem test_xframe_not_enabled :
    refused? (exec (.arbXframe 1#16) (processing benchPar 0#16)) = some .notEnabled
    ∧ refused? (exec (.arbXframe 2#16) (processing benchPar 2#16)) = some .notEnabled := by decide

/-- V-A13: the acknowledge of channel 3. -/
theorem test_ack :
    (next? (exec .arbAck (processing benchPar 2#16))).map
      (fun t => (t.acks, statusWord t, t.idx)) = some ([8#32], 0x09#32, 0#16) := by decide

/-- V-A8: no acknowledge before frame N. -/
theorem test_ack_not_enabled :
    refused? (exec .arbAck (processing benchPar 1#16)) = some .notEnabled := by decide

/-- P2 step 10: the frame received stands in input frame (0, 0). -/
theorem test_te_receives :
    (next? (exec (.teStep 0x00011111#32 0x00022222#32) (started tePar))).map
      (fun t => (t.frameAt t.inBase .half0 0, t.tePos, t.cmplFlag))
      = some (some { l := 0x00011111#32, r := 0x00022222#32 }, 1#16, false) := by decide

/-- V-E8: a completion during processing is lost, and the engine enters the half being processed. -/
theorem test_te_completion_lost :
    (next? (exec (.teStep 7#32 8#32) closing)).map
      (fun t => (t.ownViol, t.evtLost, t.altBreak, statusWord t, t.inPtr))
      = some (true, true, false, 0x2B#32, 0x20000010#32) := by decide

/-- V-B2: the last sample of the input region. -/
theorem test_bench_load :
    (next? (exec (.benchLoad .input 7#32 1#32) (cfg benchPar))).map
      (fun t => t.wordAt 0x2000001C) = some (some 1#32) := by decide

/-- V-B5, V-B6, V-O3: past the top, owned, and the index check before the ownership check. -/
theorem test_bench_load_refusals :
    (next? (exec (.benchLoad .input 4#32 1#32) { cfg benchPar with inBase := 0xFFFFFFF0#32 })).map
      (fun t => t.refuseReason) = some (some .benchRange)
    ∧ (next? (exec (.benchLoad .input 3#32 1#32) (processing benchPar 0#16))).map
      (fun t => t.refuseReason) = some (some .benchOwned)
    ∧ (next? (exec (.benchLoad .input 9#32 1#32) (processing benchPar 0#16))).map
      (fun t => t.refuseReason) = some (some .benchRange) := by decide

/-- V-B1: no raise before START. -/
theorem test_bench_raise_inactive :
    (next? (exec (.benchRaise 0x20000000#32) (cfg benchPar))).map
      (fun t => (t.refuseReason, t.cmplFlag)) = some (some .notActive, false) := by decide

/-- P4b: a second raise merges, and the pointer is the latest. -/
theorem test_bench_raise_merges :
    (next? (exec (.benchRaise 0x20000010#32) (pending benchPar))).map
      (fun t => (t.evtLost, t.cmplFlag, t.inPtr)) = some (true, true, 0x20000010#32) := by decide

/-- The frames of 95_test_vectors.md 3.2, and W1. -/
theorem test_transform :
    xformRef { l := 0x80000001#32, r := 0x0000FFFF#32 } = { l := 0x80000000#32, r := 0#32 }
    ∧ trunc16 0xFFFF7FFF#32 = 0xFFFF0000#32 ∧ trunc16 0x7FFF8000#32 = 0x7FFF0000#32 := by decide

/-- 20_memory.md R43: the two byte orders differ in the bytes and agree on the word. -/
theorem test_byte_order :
    Memory.byteAt (Memory.writeWord .little [] 16 0x11223344#32) 16 = some 0x44#8
    ∧ Memory.byteAt (Memory.writeWord .big [] 16 0x11223344#32) 16 = some 0x11#8
    ∧ Memory.readWord .big (Memory.writeWord .big [] 16 0x11223344#32) 16 = some 0x11223344#32 := by
  decide

/-! ## Witnesses: states and operands that meet the hypotheses of the obligations -/

theorem safe_started : SafetyInv (started onePar) :=
  ⟨by decide, by decide, by decide, by decide, by decide, by decide, by decide, by decide⟩

theorem witness_ResetEnablesNoArbiterOrEngineStep : tePar.bench = false ∧ benchPar.bench = true := by
  decide

theorem witness_DecodedWordsAreTheEncoding :
    decode [0x02000002#32, 5#32, 7#32] = .label (.regWrite 2#8 5#32) [7#32] := by decide

theorem witness_LabelLengthsAreFixedByOperation :
    decode [0x31000000#32, 5#32, 7#32] = .label (.benchRaise 5#32) [7#32]
    ∧ decode [0x13000000#32, 7#32] = .invalid .reservedOp [7#32] := by decide

theorem witness_StepRunsTheDecodedLabel :
    decode (withLabel .arbAck (cfg tePar)).labels = .label .arbAck []
    ∧ headerWellFormed 0x0F000000#32 = false
    ∧ (State.resetFor tePar).labels = []
    ∧ decode [0x20000000#32] = .truncated := by decide

theorem witness_HostIdleLeavesTheStateUnchanged : MonitorSettled (processing tePar 0#16) := by decide

theorem witness_RegReadAppendsTheRegister : 11 ≤ (11#8).toNat ∧ 11 ≤ (0xFF#8).toNat := by decide

theorem witness_RegWriteFollowsTheAccessClass :
    (cfg tePar).active = false ∧ (cfg tePar).cfgErr = false
    ∧ (started tePar).active = true ∧ (failed tePar).cfgErr = true
    ∧ (0xFFFFFFFE#32).getLsbD 0 = false ∧ (1#32).getLsbD 0 = true
    ∧ 11 ≤ (11#8).toNat := by decide

theorem witness_ConfigurationWriteIsReadBack :
    (cfg tePar).active = false ∧ (cfg tePar).cfgErr = false
    ∧ 10#8 ∈ [2#8, 3#8, 5#8, 6#8, 7#8, 8#8, 9#8, 10#8]
    ∧ ∃ t, exec (.regWrite 10#8 0xFFFFFFFF#32) (cfg tePar) = .next t :=
  ⟨by decide, by decide, by decide, _, rfl⟩

/-- START refused: while streaming (V-T17), and after a failed START (V-T18). -/
theorem witness_StartFollowsItsCases_again :
    (started benchPar).active = true ∧ (failed benchPar).cfgErr = true := by decide

/-- START refused for its pointer, every register at 0 (V-T19). -/
theorem witness_StartFollowsItsCases_pointer :
    (State.resetFor { tePar with ptrAlt := 0#32 }).par.ptrAlt
      = (State.resetFor { tePar with ptrAlt := 0#32 }).inBase := by decide

/-- START failed: both regions at 0 (V-T1), a region one word too high (V-T10), a channel at NUM_CH
(V-T11). -/
theorem witness_StartFollowsItsCases_failed :
    ¬ StartConditions (State.resetFor benchPar)
    ∧ ¬ StartConditions { cfg benchPar with inBase := 0xFFFFFFE8#32, outBase := 0#32 }
    ∧ ¬ StartConditions { cfg benchPar with inCh := 12#4 } := by decide

/-- START accepted: in both modes, adjacent regions (V-T6), a region that ends at 2^32 (V-T9), the last
channel (V-T12). -/
theorem witness_StartFollowsItsCases_accepted :
    StartConditions (cfg benchPar) ∧ StartConditions (cfg tePar)
    ∧ (cfg tePar).par.ptrAlt ≠ (cfg tePar).inBase
    ∧ StartConditions { cfg benchPar with outBase := 0x20000020#32 }
    ∧ StartConditions { cfg benchPar with inBase := 0xFFFFFFE0#32, outBase := 0#32 }
    ∧ StartConditions { cfg benchPar with inCh := 11#4 } := by decide

theorem witness_ArbSampleSelectsByThePointer :
    (pending benchPar).active = true ∧ (pending benchPar).busy = false
    ∧ (pending benchPar).cmplFlag = true ∧ (pending benchPar).inPtr = (pending benchPar).inBase
    ∧ (0x20000010#32 : Word) ≠ (pending benchPar).inBase
    ∧ (started benchPar).cmplFlag = false := by decide

theorem witness_ArbXframeTransformsItsFrame :
    (processing benchPar 1#16).busy = true ∧ (processing benchPar 1#16).idx = 1#16
    ∧ (1#16).toNat < benchPar.n ∧ (loaded 1#32 2#32).wordAt 0x20000000 = some 1#32
    ∧ saddr benchPar (processing benchPar 1#16).inBase .half0 1 1 + 4 ≤ 2 ^ 32
    ∧ saddr benchPar (processing benchPar 1#16).outBase .half0 1 1 + 4 ≤ 2 ^ 32
    ∧ saddr benchPar 0xFFFFFFE0#32 .half1 1 1 + 4 = 2 ^ 32
    ∧ ¬ (2#16).toNat < benchPar.n := by decide

theorem witness_ArbAckAcknowledgesAndReturns :
    (processing benchPar 2#16).busy = true
    ∧ (processing benchPar 2#16).idx.toNat = benchPar.n
    ∧ ¬ (processing benchPar 1#16).idx.toNat = benchPar.n := by decide

theorem witness_ArbiterPhasesFollowTheSequence :
    (∃ t, exec .arbSample (pending benchPar) = .next t)
    ∧ (∃ t, exec (.arbXframe 0#16) (loaded 1#32 2#32) = .next t)
    ∧ (∃ t, exec .arbAck (processing benchPar 2#16) = .next t) :=
  ⟨⟨_, rfl⟩, ⟨_, rfl⟩, ⟨_, rfl⟩⟩

theorem witness_SampleSelectsTheCompletedHalf :
    SessionInv (pending tePar) ∧ EngineInv (pending tePar) ∧ (pending tePar).par.bench = false
    ∧ (pending tePar).active = true ∧ (pending tePar).busy = false
    ∧ (pending tePar).cmplFlag = true := by decide

theorem witness_ArbRunTransformsTheSelectedHalf :
    SessionInv (pending tePar) ∧ (pending tePar).active = true ∧ (pending tePar).busy = false
    ∧ (pending tePar).cmplFlag = true
    ∧ (loaded 1#32 2#32).frameAt 0x20000000#32 .half0 0 = some { l := 1#32, r := 2#32 } := by decide

theorem witness_ReferenceTransformActsLaneByLane : benchPar.transform = .reference := rfl

theorem witness_TruncationLaws :
    (0xFFFF0000#32).toInt % 65536 = 0 ∧ 0 ≤ (0x0000FFFF#32).toInt ∧ (0x0000FFFF#32).toInt ≤ 65535
    ∧ (0x80000000#32).toInt ≤ (0x7FFFFFFF#32).toInt := by decide

theorem witness_TransformIgnoresTheConfiguration :
    ∃ t, exec (.arbXframe 0#16) (loaded 1#32 2#32) = .next t := ⟨_, rfl⟩

/-- The engine inside a half, and at its last frame. -/
theorem witness_TeStepMovesOneFrameEachWay :
    benchPar.bench = true ∧ (cfg tePar).par.bench = false ∧ (cfg tePar).active = false
    ∧ (started tePar).par.bench = false ∧ (started tePar).active = true
    ∧ saddr tePar (started tePar).inBase .half0 0 1 + 4 ≤ 2 ^ 32
    ∧ saddr tePar (started tePar).outBase .half0 0 1 + 4 ≤ 2 ^ 32
    ∧ (started tePar).tePos.toNat + 1 < tePar.n ∧ tePar.n ≤ closing.tePos.toNat + 1
    ∧ closing.active = true ∧ saddr tePar closing.outBase .half1 1 1 + 4 ≤ 2 ^ 32 := by decide

theorem witness_EngineCompletesAHalfInNSteps :
    SessionInv (started tePar) ∧ (started tePar).active = true ∧ (started tePar).par.bench = false
    ∧ (started tePar).tePos = 0#16
    ∧ [Frame.mk 1#32 2#32, Frame.mk 3#32 4#32].length = (started tePar).par.n := by decide

theorem witness_CompletionDuringProcessingIsLost :
    ArbiterInv closing ∧ closing.par.bench = false ∧ closing.busy = true
    ∧ closing.sel = closing.teHalf.other ∧ closing.par.n ≤ closing.tePos.toNat + 1
    ∧ ∃ t, exec (.teStep 7#32 8#32) closing = .next t :=
  ⟨by decide, by decide, by decide, by decide, by decide, _, rfl⟩

/-- The shortest run that has a frame to speak of: N = 1, two events, three frames (V-E2 to V-E6). -/
theorem witness_ReceivedFrameIsSentTwoHalvesLater :
    SafetyInv (started onePar) ∧ (started onePar).tePos = 0#16 ∧ (started onePar).tx = []
    ∧ (next? (execAll ([.teStep 1#32 2#32] ++ arbRun 1 ++ [.teStep 3#32 4#32] ++ arbRun 1
        ++ [.teStep 5#32 6#32]) (started onePar))).map
      (fun t => (t.evtLost, decide (0 + 2 * onePar.n < t.tx.length))) = some (false, true) :=
  ⟨safe_started, by decide, by decide, by decide⟩

/-- Wrong mode, past the region, past the top (V-B5), owned, and last sample of the other half. -/
theorem witness_BenchLoadWritesOneWord :
    tePar.bench = false ∧ benchPar.bench = true
    ∧ 4 * benchPar.n ≤ (8#32).toNat ∧ (7#32).toNat < 4 * benchPar.n
    ∧ 2 ^ 32 ≤ (0xFFFFFFF0#32).toNat + 4 * (4#32).toNat
    ∧ (0xFFFFFFF0#32).toNat + 4 * (3#32).toNat < 2 ^ 32 ∧ (0xFFFFFFF0#32).toNat % 4 = 0
    ∧ (processing benchPar 0#16).busy = true
    ∧ (3#32).toNat / (2 * benchPar.n) = (processing benchPar 0#16).sel.index
    ∧ (4#32).toNat / (2 * benchPar.n) ≠ (processing benchPar 0#16).sel.index := by decide

/-- One byte below the top word, and two bytes below the top; the second word's bytes go on at 0. -/
theorem witness_BenchLoadThroughAMisalignedBase :
    (0xFFFFFFFB#32).toNat % 4 ≠ 0 ∧ (0xFFFFFFFE#32).toNat % 4 ≠ 0
    ∧ (0xFFFFFFFE#32).toNat + 4 * (0#32).toNat < 2 ^ 32
    ∧ (0#32).toNat < 4 * benchPar.n ∧ (cfg benchPar).busy = false
    ∧ (next? (exec (.benchLoad .input 0#32 0x11223344#32)
        { cfg benchPar with inBase := 0xFFFFFFFE#32 })).map (fun t => (t.wordAt 0xFFFFFFFE, t.byteAt 1))
      = some (some 0x11223344#32, some 0x11#8) := by decide

theorem witness_BenchRaisePresentsThePointer :
    tePar.bench = false ∧ (cfg benchPar).active = false ∧ (started benchPar).active = true
    ∧ (started benchPar).par.bench = true := by decide

theorem witness_BenchModeHasNoEngine :
    benchPar.bench = true ∧ ∃ t, exec .arbSample (pending benchPar) = .next t :=
  ⟨rfl, _, rfl⟩

/-- A second refusal, a step that is not refused after a first refusal, and an invalid header. -/
theorem witness_RefusalChangesOnlyTheMark :
    (next? (exec (.regRead 11#8) (cfg tePar))).map (fun u => u.refused) = some true
    ∧ (next? (exec (.regRead 11#8)
        { cfg tePar with refused := true, refuseReason := some .cfgLocked })).map
      (fun t => t.refuseReason) = some (some .cfgLocked)
    ∧ (next? (exec .arbSample (pending benchPar))).map (fun u => u.refused) = some false
    ∧ headerWellFormed 0x03000000#32 = false := by decide

/-- Each reason of codes 2 to 9 is a first refusal of some step. -/
theorem witness_FirstRefusalRecordsItsReason :
    ((next? (exec (.teStep 1#32 2#32) (cfg benchPar))).bind (fun t => t.refuseReason) = some .mode)
    ∧ ((next? (exec (.regRead 11#8) (cfg benchPar))).bind (fun t => t.refuseReason)
      = some .regUnmapped)
    ∧ ((next? (exec (.regWrite 2#8 1#32) (failed benchPar))).bind (fun t => t.refuseReason)
      = some .cfgLocked)
    ∧ ((next? (exec (.regWrite 0#8 1#32) (failed benchPar))).bind (fun t => t.refuseReason)
      = some .startAgain)
    ∧ ((next? (exec (.regWrite 0#8 1#32) (State.resetFor { tePar with ptrAlt := 0#32 }))).bind
      (fun t => t.refuseReason) = some .ptrAlt)
    ∧ ((next? (exec (.benchRaise 0#32) (cfg benchPar))).bind (fun t => t.refuseReason)
      = some .notActive)
    ∧ ((next? (exec (.benchLoad .output 8#32 0#32) (cfg benchPar))).bind (fun t => t.refuseReason)
      = some .benchRange)
    ∧ ((next? (exec (.benchLoad .output 0#32 0#32) (processing benchPar 0#16))).bind
      (fun t => t.refuseReason) = some .benchOwned) := by decide

theorem witness_MonitorFollowsEveryStep :
    MonitorSettled closing ∧ ∃ t, exec (.teStep 7#32 8#32) closing = .next t := ⟨by decide, _, rfl⟩

theorem witness_GhostFlagsAreNotRead :
    withoutGhosts (pending tePar) = withoutGhosts { pending tePar with evtLost := true }
    ∧ (∃ t, exec .arbSample (pending tePar) = .next t)
    ∧ refused? (exec .arbAck (pending tePar)) = some .notEnabled :=
  ⟨by decide, ⟨_, rfl⟩, by decide⟩

theorem witness_StickyBitsAreNeverCleared :
    (∃ t, step (withLabel .arbAck { processing tePar 2#16 with
        ownViol := true, evtLost := true, altBreak := true, refused := true
        refuseReason := some .cfgLocked }) = .next t)
    ∧ ∃ t, step (withLabel .hostIdle (failed tePar)) = .next t := ⟨⟨_, rfl⟩, _, rfl⟩

theorem witness_CompletionFlagHasItsWriters :
    ArbiterInv (started tePar) ∧ ArbiterInv closing ∧ ArbiterInv (processing tePar 2#16)
    ∧ (next? (exec (.teStep 1#32 2#32) { started tePar with tePos := 1#16 })).map
      (fun t => t.cmplFlag) = some true
    ∧ (next? (exec .arbAck (processing tePar 2#16))).map (fun t => t.cmplFlag) = some false
    ∧ (next? (exec (.teStep 1#32 2#32) closing)).map (fun t => t.evtLost) = some true := by decide

theorem witness_RegistersHaveTheirWriters :
    (next? (exec (.regWrite 0#8 1#32) (cfg tePar))).map (fun t => t.active) = some true
    ∧ (next? (exec .arbSample (pending tePar))).map (fun t => t.busy) = some true
    ∧ (next? (exec (.benchRaise 7#32) (started benchPar))).map (fun t => t.inPtr) = some 7#32
    ∧ (next? (exec (.teStep 1#32 2#32) (started tePar))).map (fun t => t.tx.length) = some 1
    ∧ (next? (exec (.regRead 0#8) (cfg tePar))).map (fun t => t.rd) = some [0#32] := by decide

theorem witness_StepsThatStoreNothingLeaveMemory :
    (∃ t, exec (.regWrite 2#8 7#32) (cfg tePar) = .next t)
    ∧ ∃ t, exec .arbAck (processing tePar 2#16) = .next t := ⟨⟨_, rfl⟩, _, rfl⟩

/-- In each clause a step that writes, at the last frame of a half or the last word of the region, with a
byte outside: half 1 of the output beside half 0, half 0 of the input beside half 1, the byte after the
input region. -/
theorem witness_EachAgentWritesOnlyItsHalf :
    (ArbiterInv (processing benchPar 1#16) ∧ SessionInv (processing benchPar 1#16)
      ∧ (∃ t, exec (.arbXframe 1#16) (processing benchPar 1#16) = .next t)
      ∧ ¬ inHalf benchPar 0x20000100#32 .half0 0x20000110)
    ∧ (SessionInv closing ∧ EngineInv closing ∧ (∃ t, exec (.teStep 1#32 2#32) closing = .next t)
      ∧ ¬ inHalf tePar 0x20000000#32 .half1 0x2000000F)
    ∧ (bufBase .input (cfg benchPar)).toNat % 4 = 0
    ∧ (∃ t, exec (.benchLoad .input 7#32 1#32) (cfg benchPar) = .next t)
    ∧ ¬ inRegion benchPar 0x20000000#32 0x20000020 :=
  ⟨⟨by decide, by decide, ⟨_, rfl⟩, by unfold inHalf; decide⟩,
    ⟨by decide, by decide, ⟨_, rfl⟩, by unfold inHalf; decide⟩,
    by decide, ⟨_, rfl⟩, by unfold inRegion; decide⟩

theorem witness_ConfigurationIsFixedAfterStart :
    (∃ t, step (withLabel (.regWrite 2#8 7#32) (started tePar)) = .next t)
    ∧ ∃ t, step (withLabel (.regWrite 2#8 7#32) (failed tePar)) = .next t := ⟨⟨_, rfl⟩, _, rfl⟩

theorem witness_FailedStartIsFinal :
    ArbiterInv (failed tePar) ∧ (failed tePar).cfgErr = true ∧ (failed tePar).active = false
    ∧ (failed tePar).par.bench = false
    ∧ ∃ t, step (withLabel .hostIdle (failed tePar)) = .next t :=
  ⟨by decide, by decide, by decide, by decide, _, rfl⟩

theorem witness_SamplesTileTheSplitBuffer :
    inHalf benchPar 0x20000000#32 .half1 (saddr benchPar 0x20000000#32 .half1 1 1 + 3)
    ∧ (Half.half0, 1, 1) ≠ (Half.half1, 0, 0)
    ∧ saddr benchPar 0x20000000#32 .half0 1 1 + 4 ≤ saddr benchPar 0x20000000#32 .half1 0 0 := by
  refine ⟨⟨?_, ?_⟩, ?_, ?_⟩ <;> decide

theorem witness_MemoryReadsTheLastWrite :
    0xFFFFFFFC % 4 = 0 ∧ 0xFFFFFFFC < 2 ^ 32 ∧ (loaded 1#32 2#32).wordAt 0x20000004 = some 2#32
    ∧ (loaded 1#32 2#32).wordAt 0x20000008 = none := by decide

theorem witness_MemoryStaysCanonical :
    MemoryInv (loaded 1#32 2#32)
    ∧ ∃ t, step (withLabel (.arbXframe 0#16) (loaded 1#32 2#32)) = .next t := ⟨by decide, _, rfl⟩

theorem witness_BusyImpliesPendingIsKept :
    ArbiterInv (processing tePar 2#16)
    ∧ ∃ t, step (withLabel .arbAck (processing tePar 2#16)) = .next t := ⟨by decide, _, rfl⟩

theorem witness_StreamingSessionStaysValid :
    SessionInv (cfg tePar)
    ∧ ∃ t, step (withLabel (.regWrite 0#8 1#32) (cfg tePar)) = .next t := ⟨by decide, _, rfl⟩

theorem witness_PointerContractIsKept :
    EngineInv closing
    ∧ ∃ t, step (withLabel (.teStep 1#32 2#32) closing) = .next t := ⟨by decide, _, rfl⟩

theorem witness_CleanOwnershipIsKept :
    ArbiterInv (pending tePar) ∧ SessionInv (pending tePar) ∧ EngineInv (pending tePar)
    ∧ CleanInv (pending tePar)
    ∧ ∃ t, step (withLabel .arbSample (pending tePar)) = .next t :=
  ⟨by decide, by decide, by decide, by decide, _, rfl⟩

/-- One step of the run with the engine, and four of a bench run that ends inside an event: OUT_BASE is
written, then START, BENCH_RAISE and ARB_SAMPLE. -/
theorem witness_DeadlineMetRunsAreClean :
    (∃ t, Host.Core.run Sys2Proof.core 1
      { State.resetFor tePar with labels := [0x01000004#32] } = .next t ∧ DeadlineMet t)
    ∧ tePar.bench = false
    ∧ ∃ t, Host.Core.run Sys2Proof.core 4
      { State.resetFor benchPar with labels := [0x02000003#32, 0x100#32, 0x02000000#32, 1#32,
          0x31000000#32, 0#32, 0x10000000#32] } = .next t ∧ t.busy = true :=
  ⟨⟨_, rfl, by decide⟩, rfl, _, rfl, rfl⟩

theorem witness_EveryStepIsTotal :
    stepExists .arbSample (pending tePar) = true ∧ stepExists .arbAck (pending tePar) = false
    ∧ (State.resetFor tePar).labels = [] ∧ decode [0x20000000#32] = .truncated
    ∧ decode [0x12000000#32] = .label .arbAck [] := by decide

/-! ## A fair run: OUT_BASE is written, START, then TE at every odd point and ARB, when it can, at every
even one (N = 1, so that every TE_STEP completes a half). -/

/-- What the schedule takes at point `k`. -/
def fairChoice (k : Nat) (s : State) : Request :=
  if k = 0 then .label (.regWrite 3#8 0x100#32)
  else if k = 1 then .label (.regWrite 0#8 1#32)
  else if k % 2 = 1 then .label (.teStep 1#32 2#32)
  else if sampleEnabled s then .label .arbSample
  else if ackEnabled s then .label .arbAck
  else if xframeEnabled s.idx s then .label (.arbXframe s.idx)
  else .label .hostIdle

/-- The states of the run. -/
def fairState : Nat → State
  | 0 => State.resetFor onePar
  | k + 1 => (next? (takeStep (fairChoice k (fairState k)) (fairState k))).getD (fairState k)

/-- The schedule of the run. -/
def fairRequest (k : Nat) : Request := fairChoice k (fairState k)

/-- A label that runs keeps the parameters and a streaming session. -/
theorem label_keeps {i : Instr} {s t : State} (h : takeStep (.label i) s = .next t) :
    t.par = s.par ∧ (s.active = true → t.active = true) := by
  rcases exec_next h with ⟨r, rfl⟩ | ⟨u, hu, rfl⟩
  · exact ⟨rfl, id⟩
  · have := effect_par_active hu
    simpa using this

/-- From point 2 on, what the schedule takes runs. -/
theorem fair_step {k : Nat} {s : State} (hk : 2 ≤ k) (hp : s.par = onePar) (ha : s.active = true) :
    ∃ i t, fairChoice k s = .label i ∧ takeStep (.label i) s = .next t := by
  have hb : s.par.bench = false := by rw [hp]; rfl
  unfold fairChoice
  rw [if_neg (by omega), if_neg (by omega)]
  split
  · exact ⟨_, monitor (moveFrame ⟨1#32, 2#32⟩ s), rfl, by
      simp [takeStep, exec, execTeStep, teEnabled, hb, ha, taken]⟩
  · split
    · next h => exact ⟨_, monitor (enterArbiter s), rfl, by
        simp [takeStep, exec, execArbSample, h, taken]⟩
    · split
      · next h => exact ⟨_, monitor (leaveArbiter s), rfl, by
          simp [takeStep, exec, execArbAck, h, taken]⟩
      · split
        · next h => exact ⟨_, monitor (transformFrame s.idx.toNat s), rfl, by
            simp [takeStep, exec, execArbXframe, h, taken]⟩
        · exact ⟨_, monitor s, rfl, rfl⟩

/-- From point 2 on the run streams and goes on. -/
theorem fair_streams (j : Nat) :
    (fairState (j + 2)).par = onePar ∧ (fairState (j + 2)).active = true
      ∧ takeStep (fairRequest (j + 2)) (fairState (j + 2)) = .next (fairState (j + 3)) := by
  have goes : ∀ k, 2 ≤ k → (fairState k).par = onePar → (fairState k).active = true →
      takeStep (fairRequest k) (fairState k) = .next (fairState (k + 1))
        ∧ (fairState (k + 1)).par = onePar ∧ (fairState (k + 1)).active = true := by
    intro k hk hp ha
    obtain ⟨i, t, hi, ht⟩ := fair_step hk hp ha
    have hs : fairState (k + 1) = t := by simp only [fairState, hi, ht, next?, Option.getD]
    have keep := label_keeps ht
    rw [fairRequest, hi, ht, hs]
    exact ⟨rfl, keep.1.trans hp, keep.2 ha⟩
  induction j with
  | zero => exact ⟨rfl, rfl, (goes 2 (Nat.le_refl 2) rfl rfl).1⟩
  | succ j ih =>
    have now := goes (j + 2) (by omega) ih.1 ih.2.1
    exact ⟨now.2.1, now.2.2, (goes (j + 3) (by omega) now.2.1 now.2.2).1⟩

theorem fair_isRun : IsRun onePar fairRequest fairState := by
  refine ⟨rfl, fun k => ?_⟩
  match k with
  | 0 => rfl
  | 1 => rfl
  | j + 2 => exact (fair_streams j).2.2

/-- At an even point the schedule takes the one ARB step that exists. -/
theorem fair_arbFair : ArbFair fairRequest fairState := by
  intro i hi k hex
  refine ⟨2 * k + 2, by omega, ?_⟩
  have h := hex (2 * k + 2) (by omega)
  unfold fairRequest fairChoice
  rw [if_neg (by omega), if_neg (by omega), if_neg (by omega)]
  generalize fairState (2 * k + 2) = s at h
  cases i with
  | arbSample =>
    have h : sampleEnabled s = true := h
    rw [if_pos h]
  | arbAck =>
    have h : ackEnabled s = true := h
    have hs : ¬ sampleEnabled s = true := by
      intro hs
      simp_all [sampleEnabled, ackEnabled]
    rw [if_neg hs, if_pos h]
  | arbXframe fidx =>
    have h : xframeEnabled fidx s = true := h
    simp only [xframeEnabled, Bool.and_eq_true, decide_eq_true_eq] at h
    obtain ⟨⟨hb, rfl⟩, hlt⟩ := h
    have hs : ¬ sampleEnabled s = true := by simp [sampleEnabled, hb]
    have ha : ¬ ackEnabled s = true := by
      simp only [ackEnabled, Bool.and_eq_true, decide_eq_true_eq, not_and]
      omega
    rw [if_neg hs, if_neg ha, if_pos (by simp [xframeEnabled, hb, hlt])]
  | _ => cases hi

/-- TE has every odd point from 3 on. -/
theorem fair_teFair : TeFair fairRequest fairState := by
  intro k _ _
  refine ⟨2 * k + 3, by omega, 1#32, 2#32, ?_⟩
  unfold fairRequest fairChoice
  rw [if_neg (by omega), if_neg (by omega), if_pos (by omega)]

theorem witness_RunPrefixesAreTheMachinesRuns :
    IsRun onePar fairRequest fairState
    ∧ ∃ t, Host.Core.run Sys2Proof.core 1
      { State.resetFor tePar with labels := [0x03000000#32] } = .next t :=
  ⟨fair_isRun, _, rfl⟩

theorem witness_NoRunEnds :
    (started tePar).active = true ∧ (started tePar).par.bench = false
    ∧ ∃ t, step (withLabel .hostIdle (started tePar)) = .next t := ⟨rfl, rfl, _, rfl⟩

theorem witness_HostStepsMoveNoEnabling :
    (Instr.regWrite 0#8 1#32).agent = .host ∧ (pending tePar).active = true
    ∧ ∃ t, exec (.regWrite 0#8 1#32) (pending tePar) = .next t := ⟨rfl, rfl, _, rfl⟩

/-- The first TE_STEP of the fair run, at point 3, raises a completion. -/
theorem witness_EveryCompletionIsAcknowledged :
    IsRun onePar fairRequest fairState ∧ ArbFair fairRequest fairState
    ∧ (fairState 4).cmplFlag = true := ⟨fair_isRun, fair_arbFair, rfl⟩

theorem witness_FairStreamingAcknowledgesForever :
    onePar.bench = false ∧ IsRun onePar fairRequest fairState ∧ ArbFair fairRequest fairState
    ∧ TeFair fairRequest fairState ∧ (fairState 2).active = true :=
  ⟨rfl, fair_isRun, fair_arbFair, fair_teFair, rfl⟩

end Sys2Proof.Tests
end

section
/-! PROOF. The enabling conditions of the ARB and TE steps as propositions, and when such a step does not exist (00_scope.md R13; 41_arbiter.md R81, R83, R86; 43_transfer_interface.md R108). -/

namespace Sys2Proof.Machine

theorem sampleEnabled_iff (s : State) :
    sampleEnabled s = true ↔ s.active = true ∧ s.busy = false ∧ s.cmplFlag = true := by
  simp [sampleEnabled, and_assoc]

theorem xframeEnabled_iff (fidx : BitVec 16) (s : State) :
    xframeEnabled fidx s = true ↔ s.busy = true ∧ s.idx = fidx ∧ fidx.toNat < s.par.n := by
  simp [xframeEnabled, and_assoc]

theorem ackEnabled_iff (s : State) :
    ackEnabled s = true ↔ s.busy = true ∧ s.idx.toNat = s.par.n := by
  simp [ackEnabled]

/-- The shape of every autonomous step: taken under its condition, and absent without it. -/
theorem guarded_eq_notEnabled_iff (c : Prop) [Decidable c] (u : State) :
    (if c then taken u else .refused .notEnabled) = .refused .notEnabled ↔ ¬ c := by
  by_cases hc : c
  · simp [hc, taken]
  · simp [hc]

theorem exec_arbSample_eq_notEnabled_iff (s : State) :
    exec .arbSample s = .refused .notEnabled ↔ ¬ sampleEnabled s = true :=
  guarded_eq_notEnabled_iff _ _

theorem exec_arbXframe_eq_notEnabled_iff (fidx : BitVec 16) (s : State) :
    exec (.arbXframe fidx) s = .refused .notEnabled ↔ ¬ xframeEnabled fidx s = true :=
  guarded_eq_notEnabled_iff _ _

theorem exec_arbAck_eq_notEnabled_iff (s : State) :
    exec .arbAck s = .refused .notEnabled ↔ ¬ ackEnabled s = true :=
  guarded_eq_notEnabled_iff _ _

/-- In the wrong mode a TE_STEP is a refused request, which is a next state (30_encoding.md R64). -/
theorem exec_teStep_of_bench {s : State} (hb : s.par.bench = true) (rxl rxr : Word) :
    exec (.teStep rxl rxr) s = .next (refuse .mode s) := by
  simp [exec, execTeStep, refusedStep, hb]

/-- With the engine present, TE_STEP is guarded as an ARB step is. -/
theorem exec_teStep_of_engine {s : State} (hb : s.par.bench = false) (rxl rxr : Word) :
    exec (.teStep rxl rxr) s =
      if teEnabled s then taken (moveFrame { l := rxl, r := rxr } s)
      else .refused .notEnabled := by
  simp [exec, execTeStep, hb]

theorem exec_teStep_eq_notEnabled_iff (rxl rxr : Word) (s : State) :
    exec (.teStep rxl rxr) s = .refused .notEnabled ↔ s.par.bench = false ∧ s.active = false := by
  cases hb : s.par.bench with
  | true => simp [exec_teStep_of_bench hb]
  | false =>
    rw [exec_teStep_of_engine hb, guarded_eq_notEnabled_iff]
    simp [teEnabled]

/-- Settles O21: each step's outcome is its guard's, and each guard is the condition of its rule. -/
theorem autonomousStepsExistExactlyWhenEnabled :
    Obligations.AutonomousStepsExistExactlyWhenEnabled := by
  intro s fidx rxl rxr
  refine ⟨?sample, ?xframe, ?ack, exec_teStep_eq_notEnabled_iff rxl rxr s⟩
  case sample => rw [exec_arbSample_eq_notEnabled_iff, sampleEnabled_iff]
  case xframe => rw [exec_arbXframe_eq_notEnabled_iff, xframeEnabled_iff]
  case ack => rw [exec_arbAck_eq_notEnabled_iff, ackEnabled_iff]

end Sys2Proof.Machine
end

section
/-! PROOF. The values after reset, and the machine's invariants there (10_state.md R37; 70_reset_and_hazards.md R132). -/

namespace Sys2Proof.Machine

/-- FRAMES holds every N of 00_scope.md R8 exactly. -/
theorem readReg_frames_toNat (s : State) : (readReg .frames s).toNat = s.par.n := by
  have hn := s.par.n_le
  simp only [readReg, BitVec.toNat_ofNat]
  omega

/-- No byte of memory is written at reset. -/
theorem resetFor_byteAt (p : Params) (a : Nat) : (State.resetFor p).byteAt a = none :=
  Memory.byteAt_nil a

/-- Settles O1: each element is a field of `State.resetFor`; only FRAMES and memory are views of it. -/
theorem resetValuesAreTheTable : Obligations.ResetValuesAreTheTable := by
  refine ⟨rfl, fun p => ?_⟩
  exact ⟨rfl, rfl, rfl, rfl, rfl, rfl, rfl, rfl, rfl, rfl, rfl, rfl, rfl, rfl, rfl, rfl, rfl, rfl,
    readReg_frames_toNat _, resetFor_byteAt p, rfl, rfl, rfl, rfl, rfl, rfl, rfl⟩

/-- Settles O3: ACTIVE, BUSY, CMPL_FLAG and SEL_VALID are 0 at reset, so each invariant is met by
default or says that a field has its reset value; TE_POS = 0 lies inside a half because N is at least 1. -/
theorem safetyInvariantHoldsAtReset : Obligations.SafetyInvariantHoldsAtReset := by
  intro p ls
  refine ⟨?memory, ?arbiter, ?session, ?engine, ?monitor, ?clean, ?bench, ?refusal⟩
  case memory => rfl
  case arbiter => simp [ArbiterInv, State.resetFor]
  case session => simp [SessionInv, State.resetFor]
  case engine => simp [EngineInv, State.resetFor, p.n_pos]
  case monitor => simp [MonitorSettled, State.resetFor]
  case clean => simp [CleanInv, State.resetFor]
  case bench => simp [BenchInv, State.resetFor]
  case refusal => simp [RefusalInv, State.resetFor]

end Sys2Proof.Machine
end

section
/-! PROOF. The arbiter's steps as moves between the phases of 10_state.md R23 (41_arbiter.md R82, R83, R86, R89). -/

namespace Sys2Proof.Machine

/-- A guarded step that is taken gives its result with the monitor evaluated. -/
theorem guarded_eq_next_iff (c : Prop) [Decidable c] (u t : State) :
    (if c then taken u else .refused .notEnabled) = .next t ↔ c ∧ t = monitor u := by
  by_cases hc : c
  · simp [hc, taken, eq_comm]
  · simp [hc]

theorem exec_arbSample_eq_next_iff (s t : State) :
    exec .arbSample s = .next t ↔ sampleEnabled s = true ∧ t = monitor (enterArbiter s) :=
  guarded_eq_next_iff _ _ _

theorem exec_arbXframe_eq_next_iff (fidx : BitVec 16) (s t : State) :
    exec (.arbXframe fidx) s = .next t ↔
      xframeEnabled fidx s = true ∧ t = monitor (transformFrame fidx.toNat s) :=
  guarded_eq_next_iff _ _ _

theorem exec_arbAck_eq_next_iff (s t : State) :
    exec .arbAck s = .next t ↔ ackEnabled s = true ∧ t = monitor (leaveArbiter s) :=
  guarded_eq_next_iff _ _ _

@[simp] theorem phase_monitor (s : State) : phase (monitor s) = phase s := by
  simp [phase]

theorem phase_of_idle {s : State} (hbusy : s.busy = false) : phase s = some .idle := by
  simp [phase, hbusy]

theorem phase_of_frame {s : State} (hbusy : s.busy = true) (hlt : s.idx.toNat < s.par.n) :
    phase s = some (.xf s.idx.toNat) := by
  simp [phase, hbusy, hlt]

theorem phase_of_done {s : State} (hbusy : s.busy = true) (hidx : s.idx.toNat = s.par.n) :
    phase s = some .ackw := by
  simp [phase, hbusy, hidx]

/-- ARB_SAMPLE enters at XF(0), which exists because N is at least 1. -/
theorem phase_enterArbiter (s : State) : phase (enterArbiter s) = some (.xf 0) := by
  rw [phase_of_frame (by simp) (by simp [Params.n_pos])]
  simp

/-- A frame leads to the next one, or to ACKW after the last. -/
theorem phase_transformFrame {i : Nat} {s : State} (hbusy : s.busy = true) (hlt : i < s.par.n) :
    phase (transformFrame i s) = some (if i + 1 < s.par.n then .xf (i + 1) else .ackw) := by
  obtain ⟨f, d, -, -, e⟩ := transformFrame_spec i s
  have hidx : (transformFrame i s).idx.toNat = i + 1 := by
    have hn := s.par.n_le
    rw [e]
    exact Nat.mod_eq_of_lt (by omega)
  have hpar : (transformFrame i s).par = s.par := by rw [e]
  have hbusy' : (transformFrame i s).busy = true := by rw [e]; exact hbusy
  split
  · next h => rw [phase_of_frame hbusy' (by rw [hidx, hpar]; exact h), hidx]
  · next h => exact phase_of_done hbusy' (by rw [hidx, hpar]; omega)

/-- Settles O22: each step's guard fixes the phase it starts in, and its result the phase it ends in; the
two steps that do not exist after ARB_ACK want BUSY and CMPL_FLAG, which it clears. -/
theorem arbiterPhasesFollowTheSequence : Obligations.ArbiterPhasesFollowTheSequence := by
  refine ⟨fun s t h => ?sample, fun s t fidx h => ?frame, fun s t h => ?ack⟩
  case sample =>
    obtain ⟨hen, rfl⟩ := (exec_arbSample_eq_next_iff s t).1 h
    obtain ⟨-, hbusy, -⟩ := (sampleEnabled_iff s).1 hen
    exact ⟨phase_of_idle hbusy, by simp [phase_enterArbiter]⟩
  case frame =>
    obtain ⟨hen, rfl⟩ := (exec_arbXframe_eq_next_iff fidx s t).1 h
    obtain ⟨hbusy, rfl, hlt⟩ := (xframeEnabled_iff fidx s).1 hen
    exact ⟨phase_of_frame hbusy hlt, by rw [phase_monitor, phase_transformFrame hbusy hlt]⟩
  case ack =>
    obtain ⟨hen, rfl⟩ := (exec_arbAck_eq_next_iff s t).1 h
    obtain ⟨hbusy, hidx⟩ := (ackEnabled_iff s).1 hen
    refine ⟨phase_of_done hbusy hidx, ?idle, by simp [leaveArbiter], ?noAck, ?noSample⟩
    case idle => exact phase_of_idle (by simp)
    case noAck => simp [exec_arbAck_eq_notEnabled_iff, ackEnabled_iff]
    case noSample => simp [exec_arbSample_eq_notEnabled_iff, sampleEnabled_iff]

end Sys2Proof.Machine
end

section
/-! PROOF. What each effect of a step does to the flags and registers of 10_state.md, and which steps write them (10_state.md R18–R26, R33–R35). -/

namespace Sys2Proof.Machine

/-- A streaming start moves the session and, with the transfer engine, its position and pointer
(42_session.md R97). -/
theorem startStreaming_frame (s : State) :
    ∃ half pos ptr, startStreaming s =
      { s with active := true, cmplFlag := false, starts := s.starts + 1
               teHalf := half, tePos := pos, inPtr := ptr } := by
  cases hb : s.par.bench
  · exact ⟨_, _, _, startStreaming_engine hb⟩
  · exact ⟨_, _, _, startStreaming_bench hb⟩

/-- The engine's advance moves its position and pointer, and the completion's two flags, where EVT_LOST is
never cleared (43_transfer_interface.md R108). -/
theorem advanceEngine_frame (s : State) :
    ∃ half pos ptr lost flag, advanceEngine s =
      { s with teHalf := half, tePos := pos, inPtr := ptr
               evtLost := s.evtLost || lost, cmplFlag := flag } := by
  rcases advanceEngine_cases s with ⟨-, e⟩ | ⟨-, e⟩
  · exact ⟨_, _, _, false, _, by rw [e, Bool.or_false]⟩
  · exact ⟨_, _, _, _, _, e⟩

/-- CTRL stands at WIDX 0 alone (10_state.md R28). -/
theorem regOperand_eq_ctrl {widx : BitVec 8} : regOperand widx = some .ctrl → widx = 0#8 := by
  revert widx
  decide

/-- The bits that no step clears, and the recorded reason, carried from `s` to `t`. -/
structure KeepsSticky (s t : State) : Prop where
  active : s.active = true → t.active = true
  cfgErr : s.cfgErr = true → t.cfgErr = true
  selValid : s.selValid = true → t.selValid = true
  ownViol : s.ownViol = true → t.ownViol = true
  evtLost : s.evtLost = true → t.evtLost = true
  altBreak : s.altBreak = true → t.altBreak = true
  refused : s.refused = true → t.refused = true
  refuseReason : ∀ r, s.refuseReason = some r → t.refuseReason = some r

/-- An effect sets the sticky bits or leaves them; the mark and the reason are the refusals' alone. -/
theorem effect_keepsSticky {i : Instr} {s u : State} (h : Effect i s u) : KeepsSticky s u := by
  cases h with
  | stored =>
    obtain ⟨_, _, _, _, _, _, _, _, e⟩ := storeReg_frame _ _ s
    rw [e]
    constructor <;> simp
  | started =>
    obtain ⟨_, _, _, e⟩ := startStreaming_frame s
    rw [e]
    constructor <;> simp
  | moved =>
    obtain ⟨_, _, _, _, _, e⟩ := advanceEngine_frame _
    rw [e]
    constructor <;> simp +contextual
  | _ => constructor <;> simp +contextual [enterArbiter, altBreakAfter]

theorem keepsSticky_monitor (s : State) : KeepsSticky s (monitor s) := by
  constructor <;> simp +contextual

theorem keepsSticky_refuse (reason : RefuseReason) (s : State) :
    KeepsSticky s (refuse reason s) := by
  constructor <;> simp +contextual [refuse_refuseReason]

theorem keepsSticky_takeLabels (rest : List Word) (s : State) :
    KeepsSticky s (takeLabels rest s) := by
  constructor <;> simp

theorem KeepsSticky.trans {s t u : State} (h : KeepsSticky s t) (h' : KeepsSticky t u) :
    KeepsSticky s u where
  active hs := h'.active (h.active hs)
  cfgErr hs := h'.cfgErr (h.cfgErr hs)
  selValid hs := h'.selValid (h.selValid hs)
  ownViol hs := h'.ownViol (h.ownViol hs)
  evtLost hs := h'.evtLost (h.evtLost hs)
  altBreak hs := h'.altBreak (h.altBreak hs)
  refused hs := h'.refused (h.refused hs)
  refuseReason r hs := h'.refuseReason r (h.refuseReason r hs)

theorem exec_keepsSticky {i : Instr} {s t : State} (h : exec i s = .next t) : KeepsSticky s t := by
  rcases exec_next h with ⟨reason, rfl⟩ | ⟨u, hu, rfl⟩
  · exact keepsSticky_refuse reason s
  · exact (effect_keepsSticky hu).trans (keepsSticky_monitor u)

theorem step_keepsSticky {s t : State} (h : step s = .next t) : KeepsSticky s t := by
  rcases step_next h with ⟨i, rest, -, hx⟩ | ⟨_, rest, -, rfl⟩
  · exact (keepsSticky_takeLabels rest s).trans (exec_keepsSticky hx)
  · exact (keepsSticky_takeLabels rest s).trans (keepsSticky_refuse _ _)

/-- Settles O40: taking a label's words, an effect, the monitor and a refusal each keep the sticky bits,
and every step is made of these. -/
theorem stickyBitsAreNeverCleared : Obligations.StickyBitsAreNeverCleared := by
  intro s t h
  have k := step_keepsSticky h
  exact ⟨k.active, k.cfgErr, k.selValid, k.ownViol, k.evtLost, k.altBreak, k.refused, k.refuseReason⟩

/-- A completion (43_transfer_interface.md R108, R113): a TE_STEP at the last frame of a half, or a
BENCH_RAISE. -/
def IsCompletion (i : Instr) (s : State) : Prop :=
  (∃ l r, i = .teStep l r ∧ s.par.n ≤ s.tePos.toNat + 1) ∨ ∃ p, i = .benchRaise p

/-- Everything an effect can do to CMPL_FLAG and EVT_LOST: a completion raises the flag and records the
loss of a pending one, ARB_ACK and START clear the flag, and nothing else touches either. -/
theorem effect_cmplFlag_cases {i : Instr} {s u : State} (h : Effect i s u) :
    (IsCompletion i s ∧ u.cmplFlag = true ∧ u.evtLost = (s.evtLost || s.cmplFlag))
      ∨ (i = .arbAck ∧ u.cmplFlag = false ∧ u.evtLost = s.evtLost)
      ∨ (s.active = false ∧ u.cmplFlag = false ∧ u.evtLost = s.evtLost)
      ∨ (u.cmplFlag = s.cmplFlag ∧ u.evtLost = s.evtLost) := by
  cases h with
  | acked => exact .inr (.inl ⟨rfl, by simp⟩)
  | raised => exact .inl ⟨.inr ⟨_, rfl⟩, by simp⟩
  | moved =>
    rcases advanceEngine_cases _ with ⟨-, e⟩ | ⟨hlast, e⟩ <;> rw [e]
    · exact .inr (.inr (.inr ⟨rfl, rfl⟩))
    · exact .inl ⟨.inl ⟨_, _, rfl, Nat.le_of_not_lt hlast⟩, rfl, rfl⟩
  | started _ _ hactive =>
    obtain ⟨_, _, _, e⟩ := startStreaming_frame s
    rw [e]
    exact .inr (.inr (.inl ⟨hactive, rfl, rfl⟩))
  | stored =>
    obtain ⟨_, _, _, _, _, _, _, _, e⟩ := storeReg_frame _ _ s
    rw [e]
    exact .inr (.inr (.inr ⟨rfl, rfl⟩))
  | _ => exact .inr (.inr (.inr ⟨rfl, rfl⟩))

/-- Settles O41: START also clears the flag, but by the arbiter's invariant it is 0 while ACTIVE is. -/
theorem completionFlagHasItsWriters : Obligations.CompletionFlagHasItsWriters := by
  intro i s t hinv h
  obtain ⟨-, hflag, -, -, -⟩ := hinv
  rcases exec_next h with ⟨reason, rfl⟩ | ⟨u, hu, rfl⟩
  · simp +contextual
  · simp only [monitor_cmplFlag, monitor_evtLost]
    rcases effect_cmplFlag_cases hu with ⟨hc, h1, h2⟩ | ⟨rfl, h1, h2⟩ | ⟨hactive, h1, h2⟩ | ⟨h1, h2⟩
      <;> rw [h1, h2]
    · exact ⟨fun _ _ => hc, nofun, fun hno hlost => ⟨by simpa [hno] using hlost, hc⟩⟩
    · simp +contextual
    · have : s.cmplFlag = false := by simpa [hactive] using hflag
      simp +contextual [this]
    · simp +contextual

/-- Settles O42: a refusal and the monitor write none of these registers, and each effect writes those
its operation names. -/
theorem registersHaveTheirWriters : Obligations.RegistersHaveTheirWriters := by
  intro i s t h
  rcases exec_next h with ⟨reason, rfl⟩ | ⟨u, hu, rfl⟩
  · simp
  · cases hu with
    | stored =>
      obtain ⟨_, _, _, _, _, _, _, _, e⟩ := storeReg_frame _ _ s
      rw [e]
      simp
    | started hreg hbit =>
      obtain ⟨_, _, _, e⟩ := startStreaming_frame s
      simp [e, regOperand_eq_ctrl hreg, hbit]
    | startFailed hreg hbit => simp [regOperand_eq_ctrl hreg, hbit]
    | moved =>
      obtain ⟨_, _, _, _, _, e⟩ := advanceEngine_frame _
      rw [e]
      simp
    | _ => simp [Instr.agent]

end Sys2Proof.Machine
end

section
/-! PROOF. No step reads the ghost flags, the refusal mark or the recorded reason (10_state.md R33, R34): with any other values in them it does the same. -/

namespace Sys2Proof.Machine

/-- The ghost flags of 10_state.md R33. -/
structure Ghosts where
  ownViol : Bool
  evtLost : Bool
  altBreak : Bool

/-- The refusal mark of 10_state.md R34 with its reason. -/
structure Mark where
  refused : Bool
  reason : Option RefuseReason

def State.ghosts (s : State) : Ghosts where
  ownViol := s.ownViol
  evtLost := s.evtLost
  altBreak := s.altBreak

def State.mark (s : State) : Mark where
  refused := s.refused
  reason := s.refuseReason

/-- The state with other values in the fields that no step reads. -/
def State.withUnread (s : State) (g : Ghosts) (m : Mark) : State :=
  { s with
    ownViol := g.ownViol, evtLost := g.evtLost, altBreak := g.altBreak
    refused := m.refused, refuseReason := m.reason }

theorem withUnread_self (s : State) : s.withUnread s.ghosts s.mark = s := rfl

@[simp] theorem withUnread_par (s : State) (g : Ghosts) (m : Mark) :
    (s.withUnread g m).par = s.par := rfl
@[simp] theorem withUnread_active (s : State) (g : Ghosts) (m : Mark) :
    (s.withUnread g m).active = s.active := rfl
@[simp] theorem withUnread_cfgErr (s : State) (g : Ghosts) (m : Mark) :
    (s.withUnread g m).cfgErr = s.cfgErr := rfl
@[simp] theorem withUnread_inBase (s : State) (g : Ghosts) (m : Mark) :
    (s.withUnread g m).inBase = s.inBase := rfl
@[simp] theorem withUnread_outBase (s : State) (g : Ghosts) (m : Mark) :
    (s.withUnread g m).outBase = s.outBase := rfl
@[simp] theorem withUnread_sel (s : State) (g : Ghosts) (m : Mark) :
    (s.withUnread g m).sel = s.sel := rfl
@[simp] theorem withUnread_teHalf (s : State) (g : Ghosts) (m : Mark) :
    (s.withUnread g m).teHalf = s.teHalf := rfl
@[simp] theorem withUnread_tePos (s : State) (g : Ghosts) (m : Mark) :
    (s.withUnread g m).tePos = s.tePos := rfl
@[simp] theorem withUnread_tx (s : State) (g : Ghosts) (m : Mark) :
    (s.withUnread g m).tx = s.tx := rfl
@[simp] theorem withUnread_wordAt (s : State) (g : Ghosts) (m : Mark) (a : Nat) :
    (s.withUnread g m).wordAt a = s.wordAt a := rfl

/-! The operations carry the unread fields along; a completion and a sample set a ghost flag. -/

theorem memRead_withUnread (a : Nat) (s : State) (g : Ghosts) (m : Mark) :
    memRead a (s.withUnread g m) = ((memRead a s).1, (memRead a s).2.withUnread g m) := by
  simp only [memRead, withUnread_wordAt]
  cases s.wordAt a <;> rfl

theorem readFrame_withUnread (base : Word) (h : Half) (i : Nat) (s : State) (g : Ghosts) (m : Mark) :
    readFrame base h i (s.withUnread g m)
      = ((readFrame base h i s).1, (readFrame base h i s).2.withUnread g m) := by
  simp only [readFrame, memRead_withUnread, withUnread_par]

theorem writeFrame_withUnread (base : Word) (h : Half) (i : Nat) (f : Frame) (s : State) (g : Ghosts)
    (m : Mark) : writeFrame base h i f (s.withUnread g m) = (writeFrame base h i f s).withUnread g m :=
  rfl

theorem transformFrame_withUnread (i : Nat) (s : State) (g : Ghosts) (m : Mark) :
    transformFrame i (s.withUnread g m) = (transformFrame i s).withUnread g m := by
  simp only [transformFrame, readFrame_withUnread, withUnread_par, withUnread_inBase,
    withUnread_outBase, withUnread_sel, writeFrame_withUnread]
  rfl

/-- The ghost flags after the engine's advance: a completion that finds CMPL_FLAG set is lost. -/
def ghostsAfterAdvance (s : State) (g : Ghosts) : Ghosts :=
  if s.tePos.toNat + 1 < s.par.n then g else { g with evtLost := g.evtLost || s.cmplFlag }

theorem advanceEngine_withUnread (s : State) (g : Ghosts) (m : Mark) :
    advanceEngine (s.withUnread g m) = (advanceEngine s).withUnread (ghostsAfterAdvance s g) m := by
  simp only [advanceEngine, ghostsAfterAdvance]
  change (if s.tePos.toNat + 1 < s.par.n then _ else _) = _
  split <;> rfl

theorem moveFrame_withUnread (received : Frame) (s : State) :
    ∃ after : Ghosts → Ghosts, ∀ g m, moveFrame received (s.withUnread g m)
      = (moveFrame received s).withUnread (after g) m := by
  simp only [moveFrame, writeFrame_withUnread, readFrame_withUnread, withUnread_tePos,
    withUnread_inBase, withUnread_outBase, withUnread_teHalf, withUnread_tx]
  generalize readFrame s.outBase s.teHalf s.tePos.toNat
    (writeFrame s.inBase s.teHalf s.tePos.toNat received s) = sent
  exact ⟨_, advanceEngine_withUnread { sent.2 with tx := s.tx ++ [sent.1] }⟩

theorem storeReg_withUnread (reg : Reg) (data : Word) (s : State) (g : Ghosts) (m : Mark) :
    storeReg reg data (s.withUnread g m) = (storeReg reg data s).withUnread g m := by
  cases reg <;> rfl

theorem writeLocked_withUnread (reg : Reg) (data : Word) (s : State) (g : Ghosts) (m : Mark) :
    writeLocked reg data (s.withUnread g m)
      = (writeLocked reg data s).map fun t => t.withUnread g m := by
  simp only [writeLocked, withUnread_active, withUnread_cfgErr, storeReg_withUnread]
  split <;> rfl

theorem startStreaming_withUnread (s : State) (g : Ghosts) (m : Mark) :
    startStreaming (s.withUnread g m) = (startStreaming s).withUnread g m := by
  cases hb : s.par.bench
  · rw [startStreaming_engine hb, startStreaming_engine (s := s.withUnread g m) hb]
    rfl
  · rw [startStreaming_bench hb, startStreaming_bench (s := s.withUnread g m) hb]
    rfl

theorem start_withUnread (s : State) (g : Ghosts) (m : Mark) :
    start (s.withUnread g m) = (start s).map fun t => t.withUnread g m := by
  unfold start
  change (if s.active || s.cfgErr then _
    else if !s.par.bench && decide (s.par.ptrAlt = s.inBase) then _
    else if startOk s then Except.ok (startStreaming (s.withUnread g m))
    else _) = _
  rw [startStreaming_withUnread]
  split
  · rfl
  · split
    · rfl
    · split <;> rfl

theorem writeReg_withUnread (reg : Reg) (data : Word) (s : State) (g : Ghosts) (m : Mark) :
    writeReg reg data (s.withUnread g m) = (writeReg reg data s).map fun t => t.withUnread g m := by
  cases reg with
  | ctrl =>
    simp only [writeReg, start_withUnread]
    split <;> rfl
  | status => rfl
  | frames => rfl
  | _ => exact writeLocked_withUnread _ _ _ _ _

theorem bufBase_withUnread (buf : Buf) (s : State) (g : Ghosts) (m : Mark) :
    bufBase buf (s.withUnread g m) = bufBase buf s := by
  cases buf <;> rfl

theorem benchLoadRefusal_withUnread (buf : Buf) (kidx : Word) (s : State) (g : Ghosts) (m : Mark) :
    benchLoadRefusal buf kidx (s.withUnread g m) = benchLoadRefusal buf kidx s := by
  simp only [benchLoadRefusal, bufBase_withUnread]
  rfl

theorem benchRaiseRefusal_withUnread (s : State) (g : Ghosts) (m : Mark) :
    benchRaiseRefusal (s.withUnread g m) = benchRaiseRefusal s := rfl

/-! The outcomes of steps. -/

/-- The outcomes of a step from `s` with any values in the unread fields: the same refusal, or the same
next state up to ghost flags that depend on ghost flags alone, or no step. -/
inductive Unread (s : State) (o : Ghosts → Mark → Host.Outcome State Fault Refusal) : Prop
  | refusal (reason : RefuseReason) (h : ∀ g m, o g m = .next (refuse reason (s.withUnread g m)))
  | next (u : State) (after : Ghosts → Ghosts) (h : ∀ g m, o g m = .next (u.withUnread (after g) m))
  | absent (h : ∀ g m, o g m = .refused .notEnabled)

/-- The monitor sets a ghost flag and reads none. -/
theorem taken_withUnread (s : State) (g : Ghosts) (m : Mark) :
    taken (s.withUnread g m)
      = .next (s.withUnread { g with ownViol := g.ownViol || ownViolNow s } m) := by
  rw [taken, monitor_eq]
  rfl

theorem unread_taken {s : State} {t : Ghosts → Mark → State} (u : State) (after : Ghosts → Ghosts)
    (h : ∀ g m, t g m = u.withUnread (after g) m) : Unread s fun g m => taken (t g m) :=
  .next u (fun g => { after g with ownViol := (after g).ownViol || ownViolNow u }) fun g m => by
    rw [h, taken_withUnread]

theorem unread_guarded {s : State} {c : Bool} {t : Ghosts → Mark → State} (u : State)
    (after : Ghosts → Ghosts) (h : ∀ g m, t g m = u.withUnread (after g) m) :
    Unread s fun g m => if c then taken (t g m) else .refused .notEnabled := by
  cases c with
  | false => exact .absent fun g m => rfl
  | true => exact unread_taken u after h

/-- No step reads the ghost flags, the mark or the reason. -/
theorem exec_unread (i : Instr) (s : State) : Unread s fun g m => exec i (s.withUnread g m) := by
  cases i with
  | hostIdle => exact unread_taken s id fun g m => rfl
  | regRead widx =>
    simp only [exec, execRegRead]
    cases regOperand widx with
    | none => exact .refusal .regUnmapped fun g m => rfl
    | some reg =>
      exact unread_taken { s with rd := s.rd ++ [readReg reg s] } id fun g m => by cases reg <;> rfl
  | regWrite widx data =>
    simp only [exec, execRegWrite]
    cases regOperand widx with
    | none => exact .refusal .regUnmapped fun g m => rfl
    | some reg =>
      simp only [writeReg_withUnread]
      cases writeReg reg data s with
      | ok u => exact unread_taken u id fun g m => rfl
      | error reason => exact .refusal reason fun g m => rfl
  | arbSample =>
    exact unread_guarded (c := sampleEnabled s) (enterArbiter s)
      (fun g => { g with
        altBreak := g.altBreak || (s.selValid && decide (s.sel = selectHalf s.inPtr s)) })
      fun g m => rfl
  | arbXframe fidx =>
    exact unread_guarded (c := xframeEnabled fidx s) (transformFrame fidx.toNat s) id
      (transformFrame_withUnread fidx.toNat s)
  | arbAck =>
    exact unread_guarded (c := ackEnabled s) (leaveArbiter s) id fun g m => rfl
  | teStep rxl rxr =>
    cases hb : s.par.bench with
    | true =>
      exact .refusal .mode fun g m => exec_teStep_of_bench (s := s.withUnread g m) hb rxl rxr
    | false =>
      obtain ⟨after, h⟩ := moveFrame_withUnread { l := rxl, r := rxr } s
      simp only [exec_teStep_of_engine (s := s.withUnread _ _) hb]
      exact unread_guarded (c := teEnabled s) (moveFrame { l := rxl, r := rxr } s) after h
  | benchLoad buf kidx value =>
    simp only [exec, execBenchLoad, benchLoadRefusal_withUnread, bufBase_withUnread]
    cases benchLoadRefusal buf kidx s with
    | none =>
      exact unread_taken (memWrite (benchAddr (bufBase buf s) kidx) value s) id fun g m => rfl
    | some reason => exact .refusal reason fun g m => rfl
  | benchRaise ptr =>
    simp only [exec, execBenchRaise, benchRaiseRefusal_withUnread]
    cases benchRaiseRefusal s with
    | none =>
      exact unread_taken (raiseCompletion ptr s)
        (fun g => { g with evtLost := g.evtLost || s.cmplFlag }) fun g m => rfl
    | some reason => exact .refusal reason fun g m => rfl

/-! The ghost flags alone. -/

theorem withoutGhosts_withUnread (s : State) (g g' : Ghosts) (m : Mark) :
    withoutGhosts (s.withUnread g m) = withoutGhosts (s.withUnread g' m) := rfl

theorem withoutGhosts_refuse (reason : RefuseReason) (s : State) :
    withoutGhosts (refuse reason s) = refuse reason (withoutGhosts s) := rfl

/-- States equal but for the ghost flags are one state with different ghost flags. -/
theorem withUnread_of_withoutGhosts_eq {s u : State} (h : withoutGhosts s = withoutGhosts u) :
    s.withUnread u.ghosts s.mark = u := by
  have e : ∀ x : State, (withoutGhosts x).withUnread u.ghosts (withoutGhosts x).mark
      = x.withUnread u.ghosts x.mark := fun _ => rfl
  rw [← e s, h, e u, withUnread_self]

/-- Settles O39: from the second state a step is the same step with other values in fields that it does
not read. -/
theorem ghostFlagsAreNotRead : Obligations.GhostFlagsAreNotRead := by
  intro i s u hsu
  rcases exec_unread i s with ⟨reason, h⟩ | ⟨v, after, h⟩ | ⟨h⟩
  all_goals
    have hs := h s.ghosts s.mark
    have hu := h u.ghosts s.mark
    rw [withUnread_self] at hs
    rw [withUnread_of_withoutGhosts_eq hsu] at hu
    rw [hs, hu]
  · refine ⟨fun t ht => ⟨_, rfl, ?_⟩, fun _ => nofun⟩
    cases ht
    rw [withoutGhosts_refuse, hsu, withoutGhosts_refuse]
  · refine ⟨fun t ht => ⟨_, rfl, ?_⟩, fun _ => nofun⟩
    cases ht
    exact withoutGhosts_withUnread v _ _ _
  · exact ⟨fun _ => nofun, fun _ => id⟩

end Sys2Proof.Machine
end

section
/-! PROOF. Headers that no row of the opcode table accepts decode as invalid (30_encoding.md R57, R61, R62), and what a refusal changes (10_state.md R34). -/

namespace Sys2Proof

/-- The operation field read through its mask. -/
theorem and_opMask (h : Word) : h &&& 0xFF000000#32 = (opField h).setWidth 32 <<< 24 := by
  have hmask : 0xFF000000#32 = (BitVec.allOnes 8).setWidth 32 <<< 24 := by decide
  rw [hmask]
  ext i hi
  by_cases hlow : i < 24
  · simp only [BitVec.getElem_and, BitVec.getElem_shiftLeft, hlow, decide_true, Bool.not_true,
      Bool.false_and, Bool.and_false]
  · have htop : i - 24 < 8 := by omega
    have hsum : 24 + (i - 24) = i := by omega
    simp only [opField, BitVec.getElem_and, BitVec.getElem_shiftLeft, hlow, decide_false,
      Bool.not_false, Bool.true_and, BitVec.getElem_setWidth, BitVec.getLsbD_eq_getElem, htop,
      BitVec.getElem_allOnes, Bool.and_true, BitVec.getElem_extractLsb', hsum, hi]

/-- A row that fixes the operation field and puts the reserved bits at 0 accepts every such header. -/
theorem headerWellFormed_of_fields {h reserved : Word} {op : BitVec 8} {head head' : Header}
    (hrow : ∃ row ∈ opcodeRows, row.mask = 0xFF000000#32 ||| reserved
      ∧ row.pattern = op.setWidth 32 <<< 24)
    (hop : opField h = op) (hres : whenReservedZero h reserved head = .ok head') :
    headerWellFormed h = true := by
  obtain ⟨row, hmem, hmask, hpattern⟩ := hrow
  have hzero : h &&& reserved = 0#32 := by
    by_contra hne
    simp [whenReservedZero, hne] at hres
  refine List.any_eq_true.2 ⟨row, hmem, ?_⟩
  simp [OpcodeRow.accepts, hmask, hpattern, BitVec.and_or_distrib_left, and_opMask, hop, hzero]

/-- Every OP value that the decoder knows names a row, with the same reserved bits. -/
theorem headerWellFormed_of_decodeHeader {h : Word} {head : Header}
    (hd : decodeHeader h = .ok head) : headerWellFormed h = true := by
  unfold decodeHeader at hd
  iterate 9
    rcases ite_eq_iff.1 hd with ⟨hop, hd⟩ | ⟨-, hd⟩
    · exact headerWellFormed_of_fields (by decide) hop hd
  cases hd

theorem decode_of_headerWellFormed_false {h : Word} (rest : List Word)
    (hw : headerWellFormed h = false) : ∃ why, decode (h :: rest) = .invalid why rest := by
  cases hd : decodeHeader h with
  | error why => exact ⟨why, by simp [decode, hd]⟩
  | ok head => simp [headerWellFormed_of_decodeHeader hd] at hw

end Sys2Proof

namespace Sys2Proof.Machine

/-- A refusal as one record update (10_state.md R34). -/
theorem refuse_eq (reason : RefuseReason) (s : State) :
    refuse reason s =
      { s with refused := true, refuseReason := some (s.refuseReason.getD reason) } := by
  rw [← refuse_refuseReason]
  rfl

/-- Settles O36: with the mark and the reason cleared a step shows whether it is refused, and it does the
same whatever they hold, since no step reads them. -/
theorem refusalChangesOnlyTheMark : Obligations.RefusalChangesOnlyTheMark := by
  refine ⟨rfl, rfl, fun i s u hu => ?label, fun s h rest hlabels hw => ?header⟩
  case label =>
    change exec i (s.withUnread s.ghosts { refused := false, reason := none }) = .next u at hu
    rcases exec_unread i s with ⟨reason, h⟩ | ⟨v, after, h⟩ | ⟨h⟩
    all_goals
      have hs := h s.ghosts s.mark
      rw [withUnread_self] at hs
      rw [h] at hu
      cases hu
    · exact ⟨fun _ => ⟨reason, rfl, by rw [hs, refuse_eq]⟩, nofun⟩
    · exact ⟨nofun, fun _ => ⟨_, hs, rfl, rfl, rfl⟩⟩
  case header =>
    obtain ⟨why, hd⟩ := decode_of_headerWellFormed_false rest hw
    simp only [step, hlabels, hd, refusedStep, refuse_eq]
    rfl

end Sys2Proof.Machine
end

section
/-! PROOF. What each step does to memory and to the configuration registers, and where its writes lie (20_memory.md R38–R42, R46, R48; 43_transfer_interface.md R114). -/

namespace Sys2Proof.Machine

/-! The shared accesses as views of the state. -/

theorem byteAt_of_mem_eq {s t : State} (h : t.mem = s.mem) (a : Nat) : t.byteAt a = s.byteAt a :=
  congrArg (Memory.byteAt · a) h

theorem memWrite_wordAt_same (a : Nat) (v : Word) (s : State) :
    (memWrite a v s).wordAt a = some v :=
  Memory.readWord_writeWord_same _ _ _ _

/-- A word-aligned word ends inside the address space, so the bytes written are the four from `a` on. -/
theorem memWrite_byteAt_other {a c : Nat} {v : Word} {s : State} (halign : a % 4 = 0)
    (ha : a < 2 ^ 32) (hc : c < a ∨ a + 4 ≤ c) : (memWrite a v s).byteAt c = s.byteAt c :=
  Memory.byteAt_writeWord_other (by omega) hc

/-- Settles O48: a write is read back and stays inside its word; a read is the written word or a draw. -/
theorem memoryReadsTheLastWrite : Obligations.MemoryReadsTheLastWrite := by
  intro s a halign ha
  refine ⟨fun v => ⟨?readBack, ?others, rfl⟩, fun w => memRead_written, fun hnone => ?draw⟩
  case readBack => exact memRead_written (memWrite_wordAt_same a v s)
  case others => exact fun b hb => memWrite_byteAt_other halign ha hb
  case draw =>
    rcases memRead_cases a s with ⟨w, hw, -⟩ | ⟨-, e⟩
    · simp [hnone] at hw
    · rw [e]

/-- In bench mode the monitor is inactive (43_transfer_interface.md R112). -/
theorem monitor_of_bench {s : State} (hb : s.par.bench = true) : monitor s = s := by
  simp [monitor, ownViolNow, hb]

/-- A bench load that none of the refusals of 43_transfer_interface.md R114 meets. -/
theorem benchLoadRefusal_eq_none {buf : Buf} {kidx : Word} {s : State} (hb : s.par.bench = true)
    (hk : kidx.toNat < 4 * s.par.n) (ha : benchAddr (bufBase buf s) kidx < 2 ^ 32)
    (ho : s.busy = true → halfOfSample s.par kidx ≠ s.sel.index) :
    benchLoadRefusal buf kidx s = none := by
  unfold benchLoadRefusal
  rw [if_neg (by simp [hb]), if_neg (by omega), if_neg (by omega), if_neg (by simpa using ho)]

/-- A bench load that is not refused is one memory write, and the monitor leaves it. -/
theorem exec_benchLoad_of_accepted {buf : Buf} {kidx : Word} {s : State} (value : Word)
    (hno : benchLoadRefusal buf kidx s = none) :
    exec (.benchLoad buf kidx value) s
      = .next (memWrite (benchAddr (bufBase buf s) kidx) value s) := by
  obtain ⟨hb, -, -, -⟩ := benchLoadRefusal_none hno
  simp only [exec, execBenchLoad, hno, taken]
  rw [monitor_of_bench (s := memWrite _ _ s) hb]

/-- Settles O33: no refusal asks for an aligned base, so the step is the write of a word, whose bytes
stand where `laneAddr` puts them. -/
theorem benchLoadThroughAMisalignedBase : Obligations.BenchLoadThroughAMisalignedBase := by
  intro s buf k v base hbase _ hb hk ha ho
  obtain rfl : bufBase buf s = base := by cases buf <;> exact hbase.symm
  exact ⟨_, exec_benchLoad_of_accepted v (benchLoadRefusal_eq_none hb hk ha ho),
    memWrite_wordAt_same _ v s, fun a hout => Memory.byteAt_writeWord hout, rfl⟩

/-! What a step does to memory, said once. -/

/-- Everything a step from `s` to `t` can do to memory (20_memory.md R48): leave it and make no draw, or,
for ARB_XFRAME, TE_STEP and BENCH_LOAD, write one frame or one word. -/
inductive StoreEffect (s t : State) : Instr → Prop
  | nothing {i : Instr} (hmem : t.mem = s.mem) (hdraws : t.draws = s.draws) : StoreEffect s t i
  | outputFrame {fidx : BitVec 16} (f : Frame) (hbusy : s.busy = true) (hlt : fidx.toNat < s.par.n)
      (hmem : t.mem = (writeFrame s.outBase s.sel fidx.toNat f s).mem) :
      StoreEffect s t (.arbXframe fidx)
  | inputFrame {rxl rxr : Word} (f : Frame) (hactive : s.active = true)
      (hmem : t.mem = (writeFrame s.inBase s.teHalf s.tePos.toNat f s).mem) :
      StoreEffect s t (.teStep rxl rxr)
  | benchWord {buf : Buf} {kidx value : Word} (hno : benchLoadRefusal buf kidx s = none)
      (hmem : t.mem = (memWrite (benchAddr (bufBase buf s) kidx) value s).mem) :
      StoreEffect s t (.benchLoad buf kidx value)

theorem effect_storeEffect {i : Instr} {s u : State} (h : Effect i s u) : StoreEffect s u i := by
  cases h with
  | stored =>
    obtain ⟨_, _, _, _, _, _, _, _, e⟩ := storeReg_frame _ _ s
    exact .nothing (by rw [e]) (by rw [e])
  | started =>
    obtain ⟨_, _, _, e⟩ := startStreaming_frame s
    exact .nothing (by rw [e]) (by rw [e])
  | transformed _ _ hbusy _ hlt => exact .outputFrame _ hbusy hlt rfl
  | moved _ _ _ hactive =>
    obtain ⟨_, _, _, _, _, e⟩ := advanceEngine_frame _
    exact .inputFrame _ hactive (by rw [e])
  | loaded hno => exact .benchWord hno rfl
  | _ => exact .nothing rfl rfl

/-- A refusal and the monitor touch neither memory nor the draw counter. -/
theorem exec_storeEffect {i : Instr} {s t : State} (h : exec i s = .next t) : StoreEffect s t i := by
  rcases exec_next h with ⟨reason, rfl⟩ | ⟨u, hu, rfl⟩
  · exact .nothing rfl rfl
  · cases effect_storeEffect hu with
    | nothing hmem hdraws => exact .nothing (by simp [hmem]) (by simp [hdraws])
    | outputFrame f hbusy hlt hmem => exact .outputFrame f hbusy hlt (by simp [hmem])
    | inputFrame f hactive hmem => exact .inputFrame f hactive (by simp [hmem])
    | benchWord hno hmem => exact .benchWord hno (by simp [hmem])

theorem exec_keeps_memoryInv {i : Instr} {s t : State} (hs : MemoryInv s) (h : exec i s = .next t) :
    MemoryInv t := by
  unfold MemoryInv at hs ⊢
  cases exec_storeEffect h with
  | nothing hmem _ => rw [hmem]; exact hs
  | outputFrame _ _ _ hmem => rw [hmem]; exact writeFrame_wf hs
  | inputFrame _ _ hmem => rw [hmem]; exact writeFrame_wf hs
  | benchWord _ hmem => rw [hmem]; exact Memory.wf_writeWord hs

/-- Settles O49: a label's words are not memory, a refusal leaves it, and whatever a label writes is made
of words, which keep the canonical form. -/
theorem memoryStaysCanonical : Obligations.MemoryStaysCanonical := by
  intro s t hs h
  rcases step_next h with ⟨i, rest, -, hx⟩ | ⟨_, rest, -, rfl⟩
  · exact exec_keeps_memoryInv (s := takeLabels rest s) hs hx
  · exact hs

/-! The configuration registers. -/

@[simp] theorem portCfg_monitor (s : State) : portCfg (monitor s) = portCfg s := by
  simp [portCfg]

@[simp] theorem portCfg_refuse (reason : RefuseReason) (s : State) :
    portCfg (refuse reason s) = portCfg s := rfl

/-- The one effect that can change a configuration register is a register store, before START
(42_session.md R95). -/
theorem effect_portCfg {i : Instr} {s u : State} (h : Effect i s u) :
    portCfg u = portCfg s
      ∨ ((∃ w d, i = .regWrite w d) ∧ s.active = false ∧ s.cfgErr = false) := by
  cases h with
  | stored _ hactive herr => exact .inr ⟨⟨_, _, rfl⟩, hactive, herr⟩
  | started =>
    obtain ⟨_, _, _, e⟩ := startStreaming_frame s
    exact .inl (by rw [e]; rfl)
  | moved =>
    obtain ⟨_, _, _, _, _, e⟩ := advanceEngine_frame _
    exact .inl (by rw [e]; rfl)
  | _ => exact .inl rfl

theorem exec_portCfg {i : Instr} {s t : State} (h : exec i s = .next t) :
    portCfg t = portCfg s
      ∨ ((∃ w d, i = .regWrite w d) ∧ s.active = false ∧ s.cfgErr = false) := by
  rcases exec_next h with ⟨reason, rfl⟩ | ⟨u, hu, rfl⟩
  · exact .inl (portCfg_refuse reason s)
  · rw [portCfg_monitor]
    exact effect_portCfg hu

/-- Settles O43: the three operations that can store are none of the six. -/
theorem stepsThatStoreNothingLeaveMemory : Obligations.StepsThatStoreNothingLeaveMemory := by
  intro i s t hi h
  have hcfg : (∀ w d, i ≠ .regWrite w d) → portCfg t = portCfg s := fun hno =>
    (exec_portCfg h).resolve_right fun ⟨⟨w, d, e⟩, _⟩ => hno w d e
  cases exec_storeEffect h with
  | nothing hmem hdraws => exact ⟨byteAt_of_mem_eq hmem, hdraws, hcfg⟩
  | outputFrame => simp at hi
  | inputFrame => simp at hi
  | benchWord => simp at hi

/-! Where the writes lie. -/

/-- The eight bytes of a frame below N lie inside its half (20_memory.md R39). -/
theorem frame_le_half (p : Params) (base : Word) (h : Half) {i : Nat} (hi : i < p.n) :
    base.toNat + 8 * p.n * h.index ≤ saddr p base h i 0
      ∧ saddr p base h i 0 + 8 ≤ base.toNat + 8 * p.n * (h.index + 1) := by
  cases h
  · simp only [saddr_half0, Half.index]; omega
  · simp only [saddr_half1, Half.index]; omega

/-- A frame write into a region inside the address space leaves every byte outside the frame's half. -/
theorem writeFrame_byteAt_outside_half {base : Word} {h : Half} {i c : Nat} {f : Frame} {s : State}
    (hfit : base.toNat + 16 * s.par.n ≤ 2 ^ 32) (hi : i < s.par.n)
    (hc : ¬ inHalf s.par base h c) : (writeFrame base h i f s).byteAt c = s.byteAt c := by
  obtain ⟨-, htop⟩ := saddr_le s.par base h hi (c := 1) (by decide)
  obtain ⟨hlow, hhigh⟩ := frame_le_half s.par base h hi
  unfold inHalf at hc
  exact writeFrame_byteAt_other (by omega) (by omega)

/-- The word a bench load writes through an aligned base lies inside the region it names. -/
theorem benchLoad_byteAt_outside_region {buf : Buf} {kidx value : Word} {s : State} {c : Nat}
    (hno : benchLoadRefusal buf kidx s = none) (halign : (bufBase buf s).toNat % 4 = 0)
    (hc : ¬ inRegion s.par (bufBase buf s) c) :
    (memWrite (benchAddr (bufBase buf s) kidx) value s).byteAt c = s.byteAt c := by
  obtain ⟨-, hk, ha, -⟩ := benchLoadRefusal_none hno
  simp only [inRegion, Params.splitBytes] at hc
  simp only [benchAddr] at ha ⊢
  exact memWrite_byteAt_other (by omega) ha (by omega)

/-- While streaming, both regions lie inside the address space (20_memory.md R46). -/
theorem regions_fit_of_active {s : State} (hsession : SessionInv s) (hactive : s.active = true) :
    s.inBase.toNat + 16 * s.par.n ≤ 2 ^ 32 ∧ s.outBase.toNat + 16 * s.par.n ≤ 2 ^ 32 := by
  obtain ⟨hstreaming, -⟩ := hsession
  obtain ⟨-, ⟨-, -, hin, hout, -⟩, -⟩ := hstreaming hactive
  exact ⟨hin, hout⟩

theorem active_of_busy {s : State} (harb : ArbiterInv s) (hbusy : s.busy = true) :
    s.active = true := by
  obtain ⟨hpending, hactive, -⟩ := harb
  exact hactive (hpending hbusy).1

/-- Settles O44: each of the three operations leaves memory or makes its one write, and the invariants
put that write inside the half or region. -/
theorem eachAgentWritesOnlyItsHalf : Obligations.EachAgentWritesOnlyItsHalf := by
  refine fun s t => ⟨fun harb hsession fidx h a ha => ?arb,
    fun hsession hengine l r h a ha => ?te, fun buf k v halign h a ha => ?bench⟩
  case arb =>
    cases exec_storeEffect h with
    | nothing hmem _ => exact byteAt_of_mem_eq hmem a
    | outputFrame f hbusy hlt hmem =>
      obtain ⟨-, hfit⟩ := regions_fit_of_active hsession (active_of_busy harb hbusy)
      exact (byteAt_of_mem_eq hmem a).trans (writeFrame_byteAt_outside_half hfit hlt ha)
  case te =>
    cases exec_storeEffect h with
    | nothing hmem _ => exact byteAt_of_mem_eq hmem a
    | inputFrame f hactive hmem =>
      obtain ⟨hpos, -⟩ := hengine
      obtain ⟨hfit, -⟩ := regions_fit_of_active hsession hactive
      exact (byteAt_of_mem_eq hmem a).trans (writeFrame_byteAt_outside_half hfit hpos ha)
  case bench =>
    cases exec_storeEffect h with
    | nothing hmem _ => exact byteAt_of_mem_eq hmem a
    | benchWord hno hmem =>
      exact (byteAt_of_mem_eq hmem a).trans (benchLoad_byteAt_outside_region hno halign ha)

end Sys2Proof.Machine
end

section
/-! PROOF. Headers as words: OP over the OPERAND bits, and the decoder and the opcode table's rows as two readings of them (30_encoding.md R57–R59, R61, R62). -/

namespace Sys2Proof

/-- A valid header as its word: OP over the OPERAND bits (30_encoding.md R57–R59). -/
def Header.word : Header → Word
  | .hostIdle => 0x00000000#32
  | .regRead widx => 0x01000000#32 ||| widx.setWidth 32
  | .regWrite widx => 0x02000000#32 ||| widx.setWidth 32
  | .arbSample => 0x10000000#32
  | .arbXframe fidx => 0x11000000#32 ||| fidx.setWidth 32
  | .arbAck => 0x12000000#32
  | .teStep => 0x20000000#32
  | .benchLoad buf => 0x30000000#32 ||| buf.operand
  | .benchRaise => 0x31000000#32

/-! An operand field that starts at bit 0, over which a pattern stands. -/

theorem opField_or_setWidth {n : Nat} (pattern : Word) (x : BitVec n) (hn : n ≤ 24) :
    opField (pattern ||| x.setWidth 32) = opField pattern := by
  ext i hi
  simp [opField, BitVec.getLsbD_of_ge x (24 + i) (by omega)]

/-- Reserved bits that stand above a field are 0 in it. -/
theorem setWidth_and_reserved {n : Nat} {reserved : Word} (x : BitVec n)
    (hres : reserved.setWidth n = 0#n) : x.setWidth 32 &&& reserved = 0#32 := by
  ext i hi
  by_cases hin : i < n
  · have hbit : reserved.getLsbD i = false := by
      simpa [hin] using congrArg (BitVec.getLsbD · i) hres
    simp [← BitVec.getLsbD_eq_getElem, hbit]
  · simp [BitVec.getLsbD_of_ge x i (by omega)]

/-- A field is read back when the pattern puts no bit into it. -/
theorem extractLsb'_or_setWidth {n : Nat} {pattern : Word} (x : BitVec n) (hn : n ≤ 32)
    (hpat : pattern.setWidth n = 0#n) : (pattern ||| x.setWidth 32).extractLsb' 0 n = x := by
  rw [← BitVec.setWidth_eq_extractLsb' hn, BitVec.setWidth_or, hpat,
    BitVec.setWidth_setWidth_of_le x hn]
  simp

/-- The three readings of a header whose OP, reserved bits and operand field do not overlap (R57, R59,
R62). -/
theorem header_fields {n : Nat} {pattern reserved : Word} {op : BitVec 8} (x : BitVec n)
    (hsplit : n ≤ 24 ∧ opField pattern = op ∧ pattern &&& reserved = 0#32
      ∧ reserved.setWidth n = 0#n ∧ pattern.setWidth n = 0#n) :
    opField (pattern ||| x.setWidth 32) = op
      ∧ (pattern ||| x.setWidth 32) &&& reserved = 0#32
      ∧ (pattern ||| x.setWidth 32).extractLsb' 0 n = x := by
  obtain ⟨hn, hop, hpat, hres, hlow⟩ := hsplit
  have hzero : (pattern ||| x.setWidth 32) &&& reserved = 0#32 := by
    rw [BitVec.and_or_distrib_right, hpat, setWidth_and_reserved x hres, BitVec.or_zero]
  exact ⟨(opField_or_setWidth pattern x hn).trans hop, hzero,
    extractLsb'_or_setWidth x (by omega) hlow⟩

/-- The bits of a word below bit `n` are its lowest field of `n` bits. -/
theorem and_eq_setWidth_extractLsb' {n : Nat} {low : Word} (h : Word)
    (hlow : low = (BitVec.allOnes n).setWidth 32) :
    h &&& low = (h.extractLsb' 0 n).setWidth 32 := by
  subst hlow
  ext i hi
  by_cases hin : i < n <;> simp [hin, hi]

/-- Bit 0 of a word is its BUF (R59). -/
theorem and_one_eq_operand (h : Word) : h &&& 1#32 = (bufField h).operand := by
  rw [BitVec.and_one_eq_setWidth_ofBool_getLsbD, bufField]
  cases h.getLsbD 0 <;> rfl

/-! The decoder. -/

/-- Decoding a header's word gives the header back. -/
theorem decodeHeader_word (head : Header) : decodeHeader head.word = .ok head := by
  cases head with
  | hostIdle | arbSample | arbAck | teStep | benchRaise => rfl
  | benchLoad buf => cases buf <;> rfl
  | regRead widx =>
    obtain ⟨hop, hres, hfield⟩ := header_fields (pattern := 0x01000000#32)
      (reserved := 0x00FFFF00#32) (op := 0x01#8) widx (by decide)
    simp [Header.word, decodeHeader, whenReservedZero, hop, hres, hfield]
  | regWrite widx =>
    obtain ⟨hop, hres, hfield⟩ := header_fields (pattern := 0x02000000#32)
      (reserved := 0x00FFFF00#32) (op := 0x02#8) widx (by decide)
    simp [Header.word, decodeHeader, whenReservedZero, hop, hres, hfield]
  | arbXframe fidx =>
    obtain ⟨hop, hres, hfield⟩ := header_fields (pattern := 0x11000000#32)
      (reserved := 0x00FF0000#32) (op := 0x11#8) fidx (by decide)
    simp [Header.word, decodeHeader, whenReservedZero, hop, hres, hfield]

/-! The rows of the opcode table. -/

/-- What a row accepts is its pattern in the bits the row fixes, and free in the others. -/
theorem OpcodeRow.eq_pattern_or {row : OpcodeRow} {h : Word} (hacc : row.accepts h = true) :
    h = row.pattern ||| (h &&& ~~~row.mask) := by
  have hpat : h &&& row.mask = row.pattern := beq_iff_eq.1 hacc
  rw [← hpat, ← BitVec.and_or_distrib_left, BitVec.or_not_self, BitVec.and_allOnes]

/-- A header that a row accepts is the word of that row's operation. -/
theorem exists_word_of_headerWellFormed {h : Word} (hw : headerWellFormed h = true) :
    ∃ head : Header, h = head.word := by
  obtain ⟨row, hmem, hacc⟩ := List.any_eq_true.1 hw
  have hh := row.eq_pattern_or hacc
  simp only [opcodeRows, List.mem_cons, List.not_mem_nil, or_false] at hmem
  rcases hmem with rfl | rfl | rfl | rfl | rfl | rfl | rfl | rfl | rfl
  · exact ⟨.hostIdle, by simpa [Header.word] using hh⟩
  · exact ⟨.regRead (h.extractLsb' 0 8),
      hh.trans (congrArg _ (and_eq_setWidth_extractLsb' h (by decide)))⟩
  · exact ⟨.regWrite (h.extractLsb' 0 8),
      hh.trans (congrArg _ (and_eq_setWidth_extractLsb' h (by decide)))⟩
  · exact ⟨.arbSample, by simpa [Header.word] using hh⟩
  · exact ⟨.arbXframe (h.extractLsb' 0 16),
      hh.trans (congrArg _ (and_eq_setWidth_extractLsb' h (by decide)))⟩
  · exact ⟨.arbAck, by simpa [Header.word] using hh⟩
  · exact ⟨.teStep, by simpa [Header.word] using hh⟩
  · exact ⟨.benchLoad (bufField h), hh.trans (congrArg _ (and_one_eq_operand h))⟩
  · exact ⟨.benchRaise, by simpa [Header.word] using hh⟩

/-- The decoder and `Header.word` are inverse to each other. -/
theorem decodeHeader_eq_ok_iff {h : Word} {head : Header} :
    decodeHeader h = .ok head ↔ h = head.word := by
  refine ⟨fun hd => ?_, fun hw => hw ▸ decodeHeader_word head⟩
  obtain ⟨head', rfl⟩ := exists_word_of_headerWellFormed (headerWellFormed_of_decodeHeader hd)
  rw [decodeHeader_word] at hd
  cases hd
  rfl

/-- Two rows that disagree on a bit both fix accept no header together. -/
theorem OpcodeRow.accepts_disjoint {a b : OpcodeRow}
    (hne : a.pattern &&& b.mask ≠ b.pattern &&& a.mask) (h : Word) :
    ¬ (a.accepts h = true ∧ b.accepts h = true) := by
  rintro ⟨ha, hb⟩
  have ha : h &&& a.mask = a.pattern := beq_iff_eq.1 ha
  have hb : h &&& b.mask = b.pattern := beq_iff_eq.1 hb
  exact hne (by rw [← ha, ← hb, BitVec.and_assoc, BitVec.and_assoc, BitVec.and_comm a.mask])

/-- Settles O7: a row accepts every header that decodes, an accepted header is some operation's word,
which decodes, and any two rows disagree on a bit of OP, which both fix. -/
theorem headerIsValidExactlyWhenOneRowAccepts :
    Obligations.HeaderIsValidExactlyWhenOneRowAccepts := by
  refine ⟨fun h => ⟨?wellFormed, ?valid⟩, ?disjoint⟩
  case wellFormed => exact fun ⟨_, hd⟩ => headerWellFormed_of_decodeHeader hd
  case valid =>
    intro hw
    obtain ⟨head, rfl⟩ := exists_word_of_headerWellFormed hw
    exact ⟨head, decodeHeader_word head⟩
  case disjoint =>
    have hne : opcodeRows.Pairwise fun a b => a.pattern &&& b.mask ≠ b.pattern &&& a.mask := by
      decide
    exact hne.imp OpcodeRow.accepts_disjoint

end Sys2Proof
end

section
/-! PROOF. Labels as words: a header's word and its payload, and decoding as the inverse of encoding (30_encoding.md R57–R62, R65). -/

namespace Sys2Proof

/-- An operation's header, without the payload. -/
def Instr.header : Instr → Header
  | .hostIdle => .hostIdle
  | .regRead widx => .regRead widx
  | .regWrite widx _ => .regWrite widx
  | .arbSample => .arbSample
  | .arbXframe fidx => .arbXframe fidx
  | .arbAck => .arbAck
  | .teStep _ _ => .teStep
  | .benchLoad buf _ _ => .benchLoad buf
  | .benchRaise _ => .benchRaise

/-- An operation's payload words, in the order of R57. -/
def Instr.payload : Instr → List Word
  | .hostIdle => []
  | .regRead _ => []
  | .regWrite _ data => [data]
  | .arbSample => []
  | .arbXframe _ => []
  | .arbAck => []
  | .teStep rxl rxr => [rxl, rxr]
  | .benchLoad _ kidx value => [kidx, value]
  | .benchRaise ptr => [ptr]

theorem encode_eq (i : Instr) : encode i = i.header.word :: i.payload := by cases i <;> rfl

theorem Instr.length_payload (i : Instr) : i.payload.length = i.header.payloadCount := by
  cases i <;> rfl

theorem takePayload_append (i : Instr) (rest : List Word) :
    takePayload i.header (i.payload ++ rest) = .label i rest := by cases i <;> rfl

/-- Everything reading a payload can do: it ends a label with that header, or words are missing. -/
theorem takePayload_cases (head : Header) (ws : List Word) :
    (∃ i rest, takePayload head ws = .label i rest ∧ head = i.header ∧ ws = i.payload ++ rest)
      ∨ takePayload head ws = .truncated := by
  fun_cases takePayload head ws
  case case10 | case11 | case12 | case13 | case14 | case15 => exact .inr rfl
  all_goals exact .inl ⟨_, _, rfl, rfl, rfl⟩

/-- Decoding is the inverse of encoding, whatever words follow the label. -/
theorem decode_eq_label_iff {ws : List Word} {i : Instr} {rest : List Word} :
    decode ws = .label i rest ↔ ws = encode i ++ rest := by
  constructor
  · intro hd
    cases ws with
    | nil => cases hd
    | cons h payload =>
      cases hh : decodeHeader h with
      | error why => simp [decode, hh] at hd
      | ok head =>
        simp only [decode, hh] at hd
        rcases takePayload_cases head payload with ⟨j, rest', e, rfl, rfl⟩ | e
        · rw [e] at hd
          cases hd
          rw [encode_eq, decodeHeader_eq_ok_iff.1 hh, List.cons_append]
        · rw [e] at hd
          cases hd
  · rintro rfl
    simp only [encode_eq, List.cons_append, decode, decodeHeader_word, takePayload_append]

/-- Only an invalid header decodes as invalid, and it takes one word (R61). -/
theorem decode_cons_eq_invalid {h : Word} {ws rest : List Word} {why : DecodeError}
    (hd : decode (h :: ws) = .invalid why rest) : decodeHeader h = .error why ∧ rest = ws := by
  cases hh : decodeHeader h with
  | error why' =>
    simp only [decode, hh] at hd
    cases hd
    exact ⟨rfl, rfl⟩
  | ok head =>
    simp only [decode, hh] at hd
    rcases takePayload_cases head ws with ⟨_, _, e, _, _⟩ | e <;> simp [e] at hd

theorem labelLength_word (head : Header) : labelLength head.word = 1 + head.payloadCount := by
  simp [labelLength, decodeHeader_word]

/-- Settles O5: one direction of `decode_eq_label_iff`. -/
theorem decodeOfEncodeIsIdentity : Obligations.DecodeOfEncodeIsIdentity :=
  fun _ _ => decode_eq_label_iff.2 rfl

/-- Settles O6: the other direction of `decode_eq_label_iff`. -/
theorem decodedWordsAreTheEncoding : Obligations.DecodedWordsAreTheEncoding :=
  fun _ _ _ => decode_eq_label_iff.1

/-- Settles O8: a label is its header's word and as many payload words as R60 gives that header. -/
theorem labelLengthsAreFixedByOperation : Obligations.LabelLengthsAreFixedByOperation := by
  refine ⟨rfl, fun _ => rfl, fun _ _ => rfl, rfl, fun _ => rfl, rfl, fun _ _ => rfl,
    fun _ _ _ => rfl, fun _ => rfl, fun h ws i rest hd => ?label, fun h ws why rest hd => ?invalid⟩
  case label =>
    have hws := decode_eq_label_iff.1 hd
    have hlen : (encode i).length = labelLength h := by
      rw [encode_eq, List.cons_append] at hws
      rw [(List.cons.inj hws).1, labelLength_word, encode_eq, List.length_cons,
        Instr.length_payload, Nat.add_comm]
    exact ⟨hlen, by rw [hws, List.length_append, hlen]⟩
  case invalid =>
    obtain ⟨hh, hrest⟩ := decode_cons_eq_invalid hd
    exact ⟨by simp [labelLength, hh], hrest⟩

/-- Settles O4: the decoder evaluated on the eleven sequences. -/
theorem workedEncodingsDecode : Obligations.WorkedEncodingsDecode := by
  unfold Obligations.WorkedEncodingsDecode
  decide

end Sys2Proof

namespace Sys2Proof.Machine

/-- Settles O9: `step` answers by what `decode` finds, and a header that no row accepts decodes as
invalid. -/
theorem stepRunsTheDecodedLabel : Obligations.StepRunsTheDecodedLabel := by
  refine fun s => ⟨fun i rest hd => ?label, fun h rest hlabels hw => ?invalid,
    fun hlabels => ?empty, fun hd => ?truncated⟩
  case label => simp only [step, hd, takeLabels]
  case invalid =>
    obtain ⟨why, hd⟩ := decode_of_headerWellFormed_false rest hw
    simp only [step, hlabels, hd, refusedStep, takeLabels]
  case empty => simp only [step, hlabels, decode]
  case truncated => simp only [step, hd]

end Sys2Proof.Machine
end

section
/-! PROOF. Samples in a split buffer, and the acknowledge mask of a channel (30_encoding.md R67–R69; 20_memory.md R39, R40; 43_transfer_interface.md R105). -/

namespace Sys2Proof.Machine

theorem frameAt_eq_some_iff {s : State} {base : Word} {h : Half} {i : Nat} {f : Frame} :
    s.frameAt base h i = some f ↔
      s.wordAt (saddr s.par base h i 0) = some f.l
        ∧ s.wordAt (saddr s.par base h i 1) = some f.r := by
  obtain ⟨l, r⟩ := f
  cases hl : s.wordAt (saddr s.par base h i 0) <;> cases hr : s.wordAt (saddr s.par base h i 1) <;>
    simp [State.frameAt, hl, hr]

/-- Frames follow at a stride of 8 bytes. -/
theorem saddr_succ (p : Params) (base : Word) (h : Half) (i c : Nat) :
    saddr p base h (i + 1) c = saddr p base h i c + 8 := by
  simp only [saddr]; omega

/-- A sample's number in its split buffer, half 1 directly after half 0. -/
def sampleIndex (p : Params) (h : Half) (i c : Nat) : Nat := 2 * p.n * h.index + 2 * i + c

theorem saddr_eq (p : Params) (base : Word) (h : Half) (i c : Nat) :
    saddr p base h i c = base.toNat + 4 * sampleIndex p h i c := rfl

/-- Different samples of a split buffer have different numbers. -/
theorem sampleIndex_inj {p : Params} {h h' : Half} {i i' c c' : Nat} (hi : i < p.n) (hi' : i' < p.n)
    (hc : c < 2) (hc' : c' < 2) (heq : sampleIndex p h i c = sampleIndex p h' i' c') :
    (h, i, c) = (h', i', c') := by
  have hhalf : h = h' := by
    cases h <;> cases h' <;> simp only [sampleIndex, Half.index, reduceCtorEq] at heq ⊢ <;> omega
  subst hhalf
  simp only [sampleIndex] at heq
  obtain ⟨rfl, rfl⟩ : i = i' ∧ c = c' := by omega
  rfl

/-- Settles O47: a sample's address is its number's word, so different samples lie in different words. -/
theorem samplesTileTheSplitBuffer : Obligations.SamplesTileTheSplitBuffer := by
  refine ⟨fun _ _ _ _ _ => frameAt_eq_some_iff, fun p base => ⟨saddr_right p base,
    saddr_succ p base,
    fun i c => ?adjacent, ?first, fun h i c j hi hc hj => ?inside,
    fun h i c h' i' c' hi hi' hc hc' hne => ?disjoint⟩⟩
  case adjacent => rw [saddr_half0, saddr_half1]; omega
  case first => rw [saddr_half0]; rfl
  case inside =>
    obtain ⟨hlow, hhigh⟩ := frame_le_half p base h hi
    have hsample : saddr p base h i c = saddr p base h i 0 + 4 * c := by simp only [saddr]; omega
    unfold inHalf
    omega
  case disjoint =>
    have hindex := mt (sampleIndex_inj hi hi' hc hc') hne
    rw [saddr_eq, saddr_eq]
    omega

/-- The mask of a channel is the one bit of that channel's number. -/
theorem ackMask_getLsbD (ch : BitVec 4) (k : Nat) :
    (ackMask ch).getLsbD k = decide (k = ch.toNat) := by
  have hch := ch.isLt
  have htwo : ackMask ch = BitVec.twoPow 32 ch.toNat := rfl
  rw [htwo, BitVec.getLsbD_twoPow, decide_eq_true (by omega), Bool.true_and]
  exact decide_eq_decide.2 eq_comm

/-- Settles O20: the mask's one set bit is the channel's own. -/
theorem acknowledgeNamesOneChannel : Obligations.AcknowledgeNamesOneChannel := by
  intro ch other
  rw [ackClears, ackMask_getLsbD, decide_eq_true_iff, BitVec.toNat_inj]

end Sys2Proof.Machine
end

section
/-! PROOF. The frame transform: the reference transform's arithmetic (40_transform.md R73, R74), and the configuration registers that no transform reads (R72, R79). -/

namespace Sys2Proof.Machine

/-! The reference transform. -/

/-- Settles O25: R73's table is the definition of `xformRef`, and the name `reference` stands for it. -/
theorem referenceTransformActsLaneByLane : Obligations.ReferenceTransformActsLaneByLane := by
  refine ⟨fun l r => rfl, fun p f hp => ?_⟩
  simp [xform, hp]

/-- The bits from 16 on are kept, the others cleared. -/
theorem trunc16_getLsbD {i : Nat} (s : Word) (hi : i < 32) :
    (trunc16 s).getLsbD i = (s.getLsbD i && decide (16 ≤ i)) := by
  have hmask : ∀ j < 32, (0xFFFF0000#32).getLsbD j = decide (16 ≤ j) := by decide
  rw [trunc16, BitVec.getLsbD_and, hmask i hi]

/-- An arithmetic shift to the right and back clears the same 16 bits. -/
theorem trunc16_eq_shift (s : Word) : trunc16 s = (s.sshiftRight 16) <<< 16 := by
  refine BitVec.eq_of_getLsbD_eq fun i hi => ?_
  rw [trunc16_getLsbD s hi, BitVec.getLsbD_shiftLeft, BitVec.getLsbD_sshiftRight]
  by_cases h16 : i < 16
  · simp [h16]
  · have hback : 16 + (i - 16) = i := by omega
    simp [h16, hi, hback, Nat.le_of_not_lt h16, show i - 16 < 32 by omega]

/-- The shift to the right is a floor division, and the shift back a product inside the range. -/
theorem trunc16_toInt (s : Word) : (trunc16 s).toInt = 65536 * (s.toInt / 65536) := by
  have hlow := BitVec.le_toInt s
  have hhigh := BitVec.toInt_lt (x := s)
  have hpow : (BitVec.twoPow 32 16).toInt = 65536 := by decide
  rw [trunc16_eq_shift, BitVec.shiftLeft_eq_mul_twoPow, BitVec.toInt_mul, hpow,
    BitVec.toInt_sshiftRight, Int.shiftRight_eq_div_pow, Int.bmod_eq_of_le] <;> omega

theorem trunc16_eq_iff {s t : Word} : trunc16 s = t ↔ t.toInt = 65536 * (s.toInt / 65536) := by
  rw [← BitVec.toInt_inj, trunc16_toInt, eq_comm]

/-- The low 16 bits are the remainder of the floor division, whatever the sign. -/
theorem extractLsb'_low_toNat (s : Word) :
    ((s.extractLsb' 0 16).toNat : Int) = s.toInt % 65536 := by
  have htoInt := BitVec.toInt_eq_toNat_cond s
  rw [BitVec.extractLsb'_toNat]
  omega

/-- Settles O26: each law is one of `trunc16`'s bits, or arithmetic of its value, the floor to a multiple
of 65536. -/
theorem truncationLaws : Obligations.TruncationLaws := by
  refine ⟨trunc16_eq_shift, fun s => ⟨?lowBits, trunc16_toInt s⟩,
    fun s => ⟨?least, ?greatest, fun hmultiple => ?fixed⟩,
    fun s => ⟨?signBit, ?sign, fun hnonneg hsmall => ?small⟩, fun s => ?idempotent,
    fun a b hab => ?monotone, fun s => ?highBits⟩
  case lowBits => rw [trunc16_toInt, extractLsb'_low_toNat]; omega
  case least => have := BitVec.le_toInt s; rw [trunc16_toInt]; omega
  case greatest => have := BitVec.toInt_lt (x := s); rw [trunc16_toInt]; omega
  case fixed => rw [trunc16_eq_iff]; omega
  case signBit => simpa using trunc16_getLsbD (i := 31) s (by decide)
  case sign => rw [trunc16_toInt]; omega
  case small => rw [trunc16_eq_iff, BitVec.toInt_zero]; omega
  case idempotent => rw [trunc16_eq_iff, trunc16_toInt]; omega
  case monotone => rw [trunc16_toInt, trunc16_toInt]; omega
  case highBits =>
    refine BitVec.eq_of_getLsbD_eq fun i hi => ?_
    simp [trunc16_getLsbD (i := 16 + i) s (by omega)]

/-! The collaborator's configuration. -/

/-- The registers that configure the collaborator, which the arbiter does not read (40_transform.md R79). -/
structure CollaboratorConfig where
  sampleRate : Word
  bitDepth : Word
  clkMult : Word
  pins : Word
  sclkOutEn : BitVec 1

/-- The state with other values in these registers. -/
def State.withConfig (s : State) (c : CollaboratorConfig) : State :=
  { s with
    sampleRate := c.sampleRate, bitDepth := c.bitDepth, clkMult := c.clkMult
    pins := c.pins, sclkOutEn := c.sclkOutEn }

@[simp] theorem withConfig_par (s : State) (c : CollaboratorConfig) :
    (s.withConfig c).par = s.par := rfl
@[simp] theorem withConfig_wordAt (s : State) (c : CollaboratorConfig) (a : Nat) :
    (s.withConfig c).wordAt a = s.wordAt a := rfl

theorem memRead_withConfig (a : Nat) (s : State) (c : CollaboratorConfig) :
    memRead a (s.withConfig c) = ((memRead a s).1, (memRead a s).2.withConfig c) := by
  simp only [memRead, withConfig_wordAt]
  cases s.wordAt a <;> rfl

theorem readFrame_withConfig (base : Word) (h : Half) (i : Nat) (s : State) (c : CollaboratorConfig) :
    readFrame base h i (s.withConfig c)
      = ((readFrame base h i s).1, (readFrame base h i s).2.withConfig c) := by
  simp only [readFrame, memRead_withConfig, withConfig_par]

theorem transformFrame_withConfig (i : Nat) (s : State) (c : CollaboratorConfig) :
    transformFrame i (s.withConfig c) = (transformFrame i s).withConfig c := by
  simp only [transformFrame, readFrame_withConfig]
  rfl

theorem monitor_withConfig (s : State) (c : CollaboratorConfig) :
    monitor (s.withConfig c) = (monitor s).withConfig c := by
  rw [monitor_eq, monitor_eq]
  rfl

/-- Settles O27: neither the guard nor the frame's accesses and transform read those registers, so they
pass through the step as they are. -/
theorem transformIgnoresTheConfiguration : Obligations.TransformIgnoresTheConfiguration := by
  intro s t fidx rate depth mult pins en h
  obtain ⟨hen, rfl⟩ := (exec_arbXframe_eq_next_iff fidx s t).1 h
  refine (exec_arbXframe_eq_next_iff fidx (s.withConfig ⟨rate, depth, mult, pins, en⟩) _).2
    ⟨hen, ?_⟩
  rw [transformFrame_withConfig, monitor_withConfig]
  rfl

end Sys2Proof.Machine
end

section
/-! PROOF. One whole event of the arbiter, ARB_SAMPLE to ARB_ACK, as a run of labels (40_transform.md R78; 41_arbiter.md R85, R86, R89, R90; 30_encoding.md R71). -/

namespace Sys2Proof.Machine

/-! Runs of labels. -/

theorem execAll_singleton (i : Instr) (s : State) : execAll [i] s = exec i s := by
  simp only [execAll]
  cases exec i s <;> rfl

theorem execAll_cons {i : Instr} {s t : State} (h : exec i s = .next t) (is : List Instr) :
    execAll (i :: is) s = execAll is t := by
  simp only [execAll, h]

theorem execAll_append {is : List Instr} {s t : State} (h : execAll is s = .next t)
    (js : List Instr) : execAll (is ++ js) s = execAll js t := by
  induction is generalizing s with
  | nil =>
    obtain rfl : s = t := Host.Outcome.next.inj h
    rfl
  | cons i is ih =>
    cases hi : exec i s with
    | next u =>
      rw [execAll_cons hi] at h
      rw [List.cons_append, execAll_cons hi, ih h]
    | fault e => simp [execAll, hi] at h
    | refused r => simp [execAll, hi] at h

theorem xframeRun_succ (k : Nat) :
    xframeRun (k + 1) = xframeRun k ++ [.arbXframe (BitVec.ofNat 16 k)] := by
  simp [xframeRun, List.range_succ]

/-! Frames as views of the state. -/

/-- A frame whose samples are the written ones is the written frame. -/
theorem eq_of_frameAt {s : State} {base : Word} {h : Half} {i : Nat} {f g : Frame}
    (hl : ∀ l, s.wordAt (saddr s.par base h i 0) = some l → f.l = l)
    (hr : ∀ r, s.wordAt (saddr s.par base h i 1) = some r → f.r = r)
    (hg : s.frameAt base h i = some g) : f = g := by
  obtain ⟨hgl, hgr⟩ := frameAt_eq_some_iff.1 hg
  obtain ⟨l, r⟩ := f
  obtain rfl : l = g.l := hl _ hgl
  obtain rfl : r = g.r := hr _ hgr
  rfl

theorem frameAt_congr {s t : State} (hpar : t.par = s.par) (hmem : t.mem = s.mem) (base : Word)
    (h : Half) (i : Nat) : t.frameAt base h i = s.frameAt base h i := by
  simp only [State.frameAt, State.wordAt, hpar, hmem]

/-! Where the frames of the two regions lie. -/

/-- While streaming, the two regions are disjoint (20_memory.md R46). -/
theorem regions_disjoint_of_active {s : State} (hsession : SessionInv s) (hactive : s.active = true) :
    s.inBase.toNat + 16 * s.par.n ≤ s.outBase.toNat
      ∨ s.outBase.toNat + 16 * s.par.n ≤ s.inBase.toNat := by
  obtain ⟨hstreaming, -⟩ := hsession
  obtain ⟨-, ⟨-, -, -, -, hdisjoint, -⟩, -⟩ := hstreaming hactive
  exact hdisjoint

/-- The eight bytes of a frame below N lie inside its region (20_memory.md R39). -/
theorem frame_le_region (p : Params) (base : Word) (h : Half) {i : Nat} (hi : i < p.n) :
    base.toNat ≤ saddr p base h i 0 ∧ saddr p base h i 0 + 8 ≤ base.toNat + 16 * p.n := by
  obtain ⟨hlow, -⟩ := saddr_le p base h hi (c := 0) (by decide)
  obtain ⟨-, htop⟩ := saddr_le p base h hi (c := 1) (by decide)
  rw [saddr_right] at htop
  omega

/-- Earlier frames of a half lie below later ones. -/
theorem saddr_before (p : Params) (base : Word) (h : Half) {i k : Nat} (hik : i < k) :
    saddr p base h i 0 + 8 ≤ saddr p base h k 0 := by
  simp only [saddr]; omega

/-- Frames of the two regions lie apart. -/
theorem input_apart_output {s : State} (hsession : SessionInv s) (hactive : s.active = true)
    (h h' : Half) {i k : Nat} (hi : i < s.par.n) (hk : k < s.par.n) :
    saddr s.par s.inBase h i 0 + 8 ≤ saddr s.par s.outBase h' k 0
      ∨ saddr s.par s.outBase h' k 0 + 8 ≤ saddr s.par s.inBase h i 0 := by
  obtain ⟨hinLow, hinTop⟩ := frame_le_region s.par s.inBase h hi
  obtain ⟨houtLow, houtTop⟩ := frame_le_region s.par s.outBase h' hk
  have hdisjoint := regions_disjoint_of_active hsession hactive
  omega

/-! What the frames of an event do to memory. -/

/-- The state with another memory. -/
def State.withMem (s : State) (m : Memory) : State := { s with mem := m }

/-- A frame write into it changes the memory alone. -/
theorem withMem_writeFrame (base : Word) (h : Half) (i : Nat) (f : Frame) (s : State) (m : Memory) :
    s.withMem (writeFrame base h i f (s.withMem m)).mem = writeFrame base h i f (s.withMem m) := rfl

/-- `m` is the memory of `s` with the first `k` frames of half `h` transformed: the written input frames
stand transformed in the output half, the input half is as it was, and so is everything outside the output
half. -/
structure Transformed (s : State) (h : Half) (k : Nat) (m : Memory) : Prop where
  output : ∀ i f, i < k → s.frameAt s.inBase h i = some f →
    (s.withMem m).frameAt s.outBase h i = some (xform s.par f)
  input : ∀ i, i < s.par.n → (s.withMem m).frameAt s.inBase h i = s.frameAt s.inBase h i
  outside : ∀ a, ¬ inHalf s.par s.outBase h a → (s.withMem m).byteAt a = s.byteAt a

theorem transformed_zero (s : State) (h : Half) : Transformed s h 0 s.mem where
  output _ _ hi := absurd hi (Nat.not_lt_zero _)
  input _ _ := rfl
  outside _ _ := rfl

/-- Writing output frame `k` transforms one frame more: it lies in the output half, after the frames
before it and apart from the input region. -/
theorem Transformed.succ {s : State} {h : Half} {k : Nat} {m : Memory} {f : Frame}
    (hsession : SessionInv s) (hactive : s.active = true) (hm : Transformed s h k m)
    (hk : k < s.par.n) (hf : ∀ g, s.frameAt s.inBase h k = some g → f = g) :
    Transformed s h (k + 1) (writeFrame s.outBase h k (xform s.par f) (s.withMem m)).mem := by
  obtain ⟨hfitIn, hfitOut⟩ := regions_fit_of_active hsession hactive
  have inside {base : Word} {i : Nat} (hfit : base.toNat + 16 * s.par.n ≤ 2 ^ 32)
      (hi : i < s.par.n) : saddr s.par base h i 1 + 4 ≤ 2 ^ 32 := by
    obtain ⟨-, htop⟩ := saddr_le s.par base h hi (c := 1) (by decide)
    omega
  refine ⟨fun i g hi hg => ?output, fun i hi => ?input, fun a ha => ?outside⟩ <;>
    rw [withMem_writeFrame]
  case output =>
    rcases Nat.lt_succ_iff_lt_or_eq.1 hi with hlt | rfl
    · rw [writeFrame_frameAt_other (s := s.withMem m) (inside hfitOut hk)
        (inside hfitOut (hlt.trans hk)) (.inl (saddr_before s.par s.outBase h hlt))]
      exact hm.output i g hlt hg
    · rw [hf g hg]
      exact writeFrame_frameAt_same (s := s.withMem m) _ (inside hfitOut hk)
  case input =>
    rw [writeFrame_frameAt_other (s := s.withMem m) (inside hfitOut hk) (inside hfitIn hi)
      (input_apart_output hsession hactive h h hi hk)]
    exact hm.input i hi
  case outside =>
    rw [writeFrame_byteAt_outside_half (s := s.withMem m) hfitOut hk ha]
    exact hm.outside a ha

/-! The event. -/

/-- The state after ARB_SAMPLE in `s` and `k` frames, with the memory, the draw counter and the monitor's
flag that these have left. -/
def afterFrames (s : State) (k : Nat) (m : Memory) (draws : Nat) (viol : Bool) : State :=
  { enterArbiter s with idx := BitVec.ofNat 16 k, mem := m, draws := draws, ownViol := viol }

theorem monitor_afterFrames (s : State) (k : Nat) (m : Memory) (draws : Nat) (viol : Bool) :
    ∃ viol', monitor (afterFrames s k m draws viol) = afterFrames s k m draws viol' :=
  ⟨_, monitor_eq _⟩

/-- IDX holds every number of frames up to N (10_state.md R23). -/
theorem idx_toNat {p : Params} {k : Nat} (hk : k ≤ p.n) : (BitVec.ofNat 16 k).toNat = k := by
  have hn := p.n_le
  exact Nat.mod_eq_of_lt (by omega)

/-- ARB_SAMPLE leaves no frame transformed, and memory as it was. -/
theorem exec_arbSample_afterFrames {s : State} (henabled : sampleEnabled s = true) :
    ∃ viol, exec .arbSample s = .next (afterFrames s 0 s.mem s.draws viol) := by
  obtain ⟨viol, hmon⟩ := monitor_afterFrames s 0 s.mem s.draws s.ownViol
  exact ⟨viol, (exec_arbSample_eq_next_iff s _).2 ⟨henabled, hmon.symm⟩⟩

/-- ARB_ACK exists after N frames. -/
theorem exec_arbAck_afterFrames (s : State) (m : Memory) (draws : Nat) (viol : Bool) :
    exec .arbAck (afterFrames s s.par.n m draws viol)
      = .next (monitor (leaveArbiter (afterFrames s s.par.n m draws viol))) :=
  (exec_arbAck_eq_next_iff _ _).2 ⟨(ackEnabled_iff _).2 ⟨rfl, idx_toNat le_rfl⟩, rfl⟩

/-- Everything ARB_XFRAME `k` does after the frames before it. -/
theorem exec_arbXframe_afterFrames {s : State} {k : Nat} (hk : k < s.par.n) (m : Memory) (draws : Nat)
    (viol : Bool) :
    ∃ f draws' viol',
      (∀ g, (s.withMem m).frameAt s.inBase (selectHalf s.inPtr s) k = some g → f = g)
      ∧ exec (.arbXframe (BitVec.ofNat 16 k)) (afterFrames s k m draws viol)
        = .next (afterFrames s (k + 1)
          (writeFrame s.outBase (selectHalf s.inPtr s) k (xform s.par f) (s.withMem m)).mem
          draws' viol') := by
  have hidx := idx_toNat hk.le
  obtain ⟨f, draws', hl, hr, e⟩ := transformFrame_spec k (afterFrames s k m draws viol)
  obtain ⟨viol', hmon⟩ := monitor_afterFrames s (k + 1)
    (writeFrame s.outBase (selectHalf s.inPtr s) k (xform s.par f) (s.withMem m)).mem draws' viol
  refine ⟨f, draws', viol', fun g => eq_of_frameAt hl hr, ?_⟩
  refine (exec_arbXframe_eq_next_iff _ _ _).2 ⟨(xframeEnabled_iff _ _).2 ⟨rfl, rfl, ?lt⟩, ?result⟩
  case lt => rw [hidx]; exact hk
  case result => rw [hidx, e]; exact hmon.symm

/-- The frames of an event succeed one after the other, and transform as many frames. -/
theorem execAll_xframeRun {s : State} (hsession : SessionInv s) (hactive : s.active = true)
    (draws : Nat) (viol : Bool) {k : Nat} (hk : k ≤ s.par.n) :
    ∃ m draws' viol', execAll (xframeRun k) (afterFrames s 0 s.mem draws viol)
        = .next (afterFrames s k m draws' viol')
      ∧ Transformed s (selectHalf s.inPtr s) k m := by
  induction k with
  | zero => exact ⟨s.mem, draws, viol, rfl, transformed_zero s _⟩
  | succ k ih =>
    obtain ⟨m, d, v, hrun, hm⟩ := ih (by omega)
    obtain ⟨f, d', v', hf, hstep⟩ := exec_arbXframe_afterFrames hk m d v
    rw [hm.input k hk] at hf
    refine ⟨_, d', v', ?_, hm.succ hsession hactive hk hf⟩
    rw [xframeRun_succ, execAll_append hrun, execAll_singleton, hstep]

/-- Settles O24: ARB_SAMPLE selects the half, each of the N frames keeps `Transformed` and counts one more,
and ARB_ACK leaves memory and answers the completion. -/
theorem arbRunTransformsTheSelectedHalf : Obligations.ArbRunTransformsTheSelectedHalf := by
  intro s h hsession hactive hbusy hflag hsel
  obtain rfl : selectHalf s.inPtr s = h := hsel.symm
  obtain ⟨v, hsample⟩ := exec_arbSample_afterFrames ((sampleEnabled_iff s).2 ⟨hactive, hbusy, hflag⟩)
  obtain ⟨m, d, v', hframes, hm⟩ := execAll_xframeRun hsession hactive s.draws v le_rfl
  have hack := exec_arbAck_afterFrames s m d v'
  refine ⟨monitor (leaveArbiter (afterFrames s s.par.n m d v')), ?run, fun i f hi hf => ?output,
    fun a ha => ?outside, ?control⟩
  case run =>
    calc execAll (arbRun s.par.n) s
      _ = execAll (xframeRun s.par.n ++ [Instr.arbAck]) (afterFrames s 0 s.mem s.draws v) :=
        execAll_cons hsample _
      _ = execAll [.arbAck] (afterFrames s s.par.n m d v') := execAll_append hframes _
      _ = exec .arbAck (afterFrames s s.par.n m d v') := execAll_singleton _ _
      _ = .next (monitor (leaveArbiter (afterFrames s s.par.n m d v'))) := hack
  case output =>
    exact (frameAt_congr (monitor_par _) (monitor_mem _) _ _ _).trans (hm.output i f hi hf)
  case outside =>
    exact (byteAt_of_mem_eq (monitor_mem _) a).trans (hm.outside a ha)
  case control => simp [afterFrames, ackMask]

end Sys2Proof.Machine
end

section
/-! PROOF. The arbiter's three operations by their rules, its control invariant, and whose half it processes beside the transfer engine (41_arbiter.md R80, R82, R83, R86–R88, R91, R92; 70_reset_and_hazards.md R141). -/

namespace Sys2Proof

theorem Half.eq_other_iff {h k : Half} : h = k.other ↔ h ≠ k := by
  cases h <;> cases k <;> decide

end Sys2Proof

namespace Sys2Proof.Machine

/-! The operations. -/

/-- Settles O17: `selectHalf` is the comparison with IN_BASE, and `enterArbiter` the rest of R82. -/
theorem arbSampleSelectsByThePointer : Obligations.ArbSampleSelectsByThePointer := by
  refine ⟨rfl, fun s hno => ?absent, fun s hactive hbusy hflag =>
    ⟨fun hptr => ?half0, fun hptr => ?half1⟩⟩
  case absent => rwa [exec_arbSample_eq_notEnabled_iff, sampleEnabled_iff]
  all_goals
    refine (exec_arbSample_eq_next_iff s _).2 ⟨(sampleEnabled_iff s).2 ⟨hactive, hbusy, hflag⟩, ?_⟩
    simp [enterArbiter, altBreakAfter, selectHalf, hptr]

/-- Settles O19: `leaveArbiter` is the effect of R86, and the guard its condition. -/
theorem arbAckAcknowledgesAndReturns : Obligations.ArbAckAcknowledgesAndReturns := by
  refine ⟨rfl, fun s hno => ?absent, fun s hbusy hidx => ?taken⟩
  case absent => rwa [exec_arbAck_eq_notEnabled_iff, ackEnabled_iff]
  case taken => exact (exec_arbAck_eq_next_iff s _).2 ⟨(ackEnabled_iff s).2 ⟨hbusy, hidx⟩, rfl⟩

/-- Settles O18: the step is one frame write, whose frame and other bytes are those of
`writeFrame_frameAt_same` and `writeFrame_byteAt_other`; what the monitor reads it leaves alone. -/
theorem arbXframeTransformsItsFrame : Obligations.ArbXframeTransformsItsFrame := by
  refine ⟨fun _ => rfl, fun s fidx hno => ?absent, fun s fidx hbusy hidx hlt _ hfit => ?taken⟩
  case absent => rwa [exec_arbXframe_eq_notEnabled_iff, xframeEnabled_iff]
  case taken =>
    obtain ⟨f, d, hl, hr, e⟩ := transformFrame_spec fidx.toNat s
    have hmem : (monitor (transformFrame fidx.toNat s)).mem
        = (writeFrame s.outBase s.sel fidx.toNat (xform s.par f) s).mem := by rw [monitor_mem, e]
    have hpar : (monitor (transformFrame fidx.toNat s)).par = s.par := by rw [monitor_par, e]
    refine ⟨monitor (transformFrame fidx.toNat s), f, ?step, hl, hr, ?output, ?idx,
      fun a ha => ?outside, ?viol, ?others⟩
    case step =>
      exact (exec_arbXframe_eq_next_iff fidx s _).2
        ⟨(xframeEnabled_iff fidx s).2 ⟨hbusy, hidx, hlt⟩, rfl⟩
    case output =>
      rw [frameAt_congr (s := writeFrame s.outBase s.sel fidx.toNat (xform s.par f) s) hpar hmem]
      exact writeFrame_frameAt_same _ hfit
    case idx => rw [monitor_idx, e]; exact idx_toNat hlt
    case outside => exact (byteAt_of_mem_eq hmem a).trans (writeFrame_byteAt_other hfit ha)
    case viol => rw [monitor_ownViol, e]; rfl
    case others => rw [monitor_eq, e]

/-! The ownership monitor. -/

theorem ownViolNow_iff (s : State) :
    ownViolNow s = true ↔
      s.par.bench = false ∧ s.active = true ∧ s.busy = true ∧ s.sel = s.teHalf := by
  simp only [ownViolNow, Bool.and_eq_true, Bool.not_eq_true', decide_eq_true_eq]
  tauto

/-- Only the monitor writes OWN_VIOL (10_state.md R33). -/
theorem effect_ownViol {i : Instr} {s u : State} (h : Effect i s u) : u.ownViol = s.ownViol := by
  cases h with
  | stored =>
    obtain ⟨_, _, _, _, _, _, _, _, e⟩ := storeReg_frame _ _ s
    rw [e]
  | started =>
    obtain ⟨_, _, _, e⟩ := startStreaming_frame s
    rw [e]
  | moved =>
    obtain ⟨_, _, _, _, _, e⟩ := advanceEngine_frame _
    rw [e]
  | _ => rfl

/-- Settles O38: an effect leaves OWN_VIOL to the monitor, which sets it on R87's condition; a refusal
changes nothing the condition reads, and on such a state the monitor has been evaluated. -/
theorem monitorFollowsEveryStep : Obligations.MonitorFollowsEveryStep := by
  intro i s t hsettled h
  rcases exec_next h with ⟨reason, rfl⟩ | ⟨u, hu, rfl⟩
  · simp only [refuse_ownViol, refuse_par, refuse_active, refuse_busy, refuse_sel, refuse_teHalf]
    refine ⟨.inl, ?_⟩
    rintro (hviol | ⟨hbench, hactive, hbusy, hsel⟩)
    · exact hviol
    · exact hsettled hbench hactive hbusy hsel
  · simp [effect_ownViol hu, ownViolNow_iff]

/-! Invariants under every step. -/

/-- What a refusal and the monitor after an effect give, every step gives: the label's words that it
takes are the schedule's alone. -/
theorem step_gives {P Q : State → Prop} (htake : ∀ rest s, P s → P (takeLabels rest s))
    (hrefuse : ∀ reason s, P s → Q (refuse reason s))
    (heffect : ∀ {i s u}, P s → Effect i s u → Q (monitor u)) {s t : State} (hs : P s)
    (h : step s = .next t) : Q t := by
  rcases step_next h with ⟨i, rest, -, hx⟩ | ⟨_, rest, -, rfl⟩
  · rcases exec_next hx with ⟨reason, rfl⟩ | ⟨u, hu, rfl⟩
    · exact hrefuse reason _ (htake rest s hs)
    · exact heffect (htake rest s hs) hu
  · exact hrefuse _ _ (htake rest s hs)

theorem monitor_arbiterInv {s : State} (hs : ArbiterInv s) : ArbiterInv (monitor s) := by
  simpa [ArbiterInv] using hs

/-- BUSY is set only while a completion is pending and cleared with it; a completion is raised only while
streaming, and START finds the arbiter idle (41_arbiter.md R88). -/
theorem effect_arbiterInv {i : Instr} {s u : State} (hs : ArbiterInv s) (h : Effect i s u) :
    ArbiterInv u := by
  have ⟨hpending, hflag, hvalid, hidx, hidle⟩ := hs
  cases h with
  | stored =>
    obtain ⟨_, _, _, _, _, _, _, _, e⟩ := storeReg_frame _ _ s
    rw [e]
    exact hs
  | started _ _ hactive =>
    obtain ⟨_, _, _, e⟩ := startStreaming_frame s
    have hnotBusy : s.busy ≠ true := fun hbusy => by simp [active_of_busy hs hbusy] at hactive
    rw [e]
    exact ⟨fun hbusy => absurd hbusy hnotBusy, fun _ => rfl, fun _ => rfl, hidx, hidle⟩
  | sampled hactive _ hcmpl =>
    exact ⟨fun _ => ⟨hcmpl, rfl⟩, fun _ => hactive, fun _ => hactive, Nat.zero_le _, nofun⟩
  | transformed _ _ hbusy _ hlt =>
    exact ⟨hpending, hflag, hvalid, (idx_toNat hlt).trans_le hlt,
      fun hno => by simp [hbusy] at hno⟩
  | acked => exact ⟨nofun, nofun, hvalid, Nat.zero_le _, fun _ => rfl⟩
  | moved _ _ _ hactive =>
    rcases advanceEngine_cases _ with ⟨-, e⟩ | ⟨-, e⟩ <;> rw [e]
    · exact hs
    · exact ⟨fun hbusy => ⟨rfl, (hpending hbusy).2⟩, fun _ => hactive, hvalid, hidx, hidle⟩
  | raised _ hactive =>
    exact ⟨fun hbusy => ⟨rfl, (hpending hbusy).2⟩, fun _ => hactive, hvalid, hidx, hidle⟩
  | idled | readBack | ignored | startFailed | loaded => exact hs

/-- Settles O50: a refusal and the monitor leave the control fields, and every effect keeps the invariant. -/
theorem busyImpliesPendingIsKept : Obligations.BusyImpliesPendingIsKept := fun _ _ =>
  step_gives (fun _ _ hs => hs) (fun _ _ hs => hs)
    (fun hs hu => monitor_arbiterInv (effect_arbiterInv hs hu))

/-! Beside the transfer engine. -/

/-- The pointer contract makes the arbiter select the half that the engine has left (41_arbiter.md R91). -/
theorem selectHalf_eq_other {s : State} (hsession : SessionInv s) (hengine : EngineInv s)
    (hbench : s.par.bench = false) (hactive : s.active = true) :
    selectHalf s.inPtr s = s.teHalf.other := by
  obtain ⟨hstreaming, -⟩ := hsession
  obtain ⟨-, -, halt⟩ := hstreaming hactive
  obtain ⟨-, hcontract⟩ := hengine
  obtain ⟨hbase, hother⟩ := hcontract hactive hbench
  cases hhalf : s.teHalf with
  | half0 => simp [selectHalf, Half.other, hother hhalf, halt hbench]
  | half1 => simp [selectHalf, Half.other, hbase hhalf]

/-- Settles O23: the half selected is not the engine's, so the monitor has nothing to record. -/
theorem sampleSelectsTheCompletedHalf : Obligations.SampleSelectsTheCompletedHalf := by
  intro s hsession hengine hbench hactive hbusy hflag
  have hsel := selectHalf_eq_other hsession hengine hbench hactive
  have hquiet : ownViolNow (enterArbiter s) ≠ true := by
    rw [ne_eq, ownViolNow_iff]
    exact fun ⟨_, _, _, hown⟩ => Half.eq_other_iff.1 hsel hown
  refine ⟨monitor (enterArbiter s), ?step, ?sel, ?valid, ?busy, ?idx, ?viol⟩
  case step =>
    exact (exec_arbSample_eq_next_iff s _).2 ⟨(sampleEnabled_iff s).2 ⟨hactive, hbusy, hflag⟩, rfl⟩
  case viol => simp [hquiet]
  all_goals simp [hsel]

/-- Settles O30: BUSY says that a completion is pending, so the new one is lost, and the engine moves onto
the half that the arbiter is at, which the monitor records. -/
theorem completionDuringProcessingIsLost : Obligations.CompletionDuringProcessingIsLost := by
  intro s t rxl rxr harb hbench hbusy hsel hlast h
  have ⟨hpending, _⟩ := harb
  obtain ⟨hflag, -⟩ := hpending hbusy
  have hactive := active_of_busy harb hbusy
  rw [exec_teStep_of_engine hbench] at h
  obtain ⟨-, rfl⟩ := (guarded_eq_next_iff _ _ t).1 h
  obtain ⟨sent, d, -, -, e⟩ := moveFrame_spec { l := rxl, r := rxr } s
  obtain ⟨hlt, -⟩ | ⟨-, e'⟩ := advanceEngine_cases { s with
    mem := (writeFrame s.inBase s.teHalf s.tePos.toNat { l := rxl, r := rxr } s).mem
    draws := d
    tx := s.tx ++ [sent] }
  · exact absurd hlt (Nat.not_lt.2 hlast)
  · rw [e, e']
    simp [ownViolNow, hbench, hactive, hbusy, hflag, hsel, exec_arbSample_eq_notEnabled_iff,
      sampleEnabled_iff]

/-- While no event is lost the arbiter processes the half that the engine is not in, so the monitor finds
no violation. -/
theorem monitor_cleanInv {s : State} (harb : ArbiterInv s) (hs : CleanInv s) :
    CleanInv (monitor s) := by
  intro hbench hlost
  rw [monitor_par] at hbench
  rw [monitor_evtLost] at hlost
  obtain ⟨hviol, halt, hfollows⟩ := hs hbench hlost
  obtain ⟨hpending, -⟩ := harb
  have hquiet : ownViolNow s ≠ true := by
    rw [ne_eq, ownViolNow_iff]
    intro ⟨_, _, hbusy, hown⟩
    obtain ⟨hidle, -⟩ := (hfollows (hpending hbusy).2).1 hown
    simp [hbusy] at hidle
  simpa [hviol, hquiet, halt] using hfollows

/-- The selection is the engine's half exactly while a new completion waits: a completion that is not lost
finds the arbiter idle and moves the engine onto the last selection, ARB_SAMPLE selects the half it left,
and ARB_ACK keeps that selection (41_arbiter.md R91). -/
theorem effect_cleanInv {i : Instr} {s u : State} (harb : ArbiterInv s) (hsession : SessionInv s)
    (hengine : EngineInv s) (hs : CleanInv s) (h : Effect i s u) : CleanInv u := by
  have ⟨hpending, _, hvalidActive, _⟩ := harb
  cases h with
  | stored =>
    obtain ⟨_, _, _, _, _, _, _, _, e⟩ := storeReg_frame _ _ s
    rw [e]
    exact hs
  | started _ _ hactive =>
    obtain ⟨_, _, _, e⟩ := startStreaming_frame s
    rw [e]
    intro hbench hlost
    obtain ⟨hviol, halt, -⟩ := hs hbench hlost
    exact ⟨hviol, halt, fun hvalid => by simp [hvalidActive hvalid] at hactive⟩
  | sampled hactive hbusy hflag =>
    intro hbench hlost
    obtain ⟨hviol, halt, hfollows⟩ := hs hbench hlost
    have hsel := selectHalf_eq_other hsession hengine hbench hactive
    have hne := Half.eq_other_iff.1 hsel
    refine ⟨hviol, ?alternates, fun _ => iff_of_false hne nofun⟩
    have hchanged : s.selValid = true → s.sel ≠ selectHalf s.inPtr s := fun hvalid =>
      (hfollows hvalid).2 ⟨hbusy, hflag⟩ ▸ hne.symm
    simpa [altBreakAfter, halt] using hchanged
  | acked hbusy =>
    intro hbench hlost
    obtain ⟨hviol, halt, hfollows⟩ := hs hbench hlost
    refine ⟨hviol, halt, fun hvalid => iff_of_false (fun hown => ?_) nofun⟩
    obtain ⟨hidle, -⟩ := (hfollows hvalid).1 hown
    simp [hbusy] at hidle
  | moved =>
    rcases advanceEngine_cases _ with ⟨-, e⟩ | ⟨-, e⟩ <;> rw [e]
    · exact hs
    · intro hbench hlost
      obtain ⟨hkept, hfree⟩ : s.evtLost = false ∧ s.cmplFlag = false := by simpa using hlost
      obtain ⟨hviol, halt, hfollows⟩ := hs hbench hkept
      have hidle : s.busy = false :=
        Bool.eq_false_iff.2 fun hbusy => by simp [hpending hbusy] at hfree
      have hleft : s.selValid = true → s.sel ≠ s.teHalf := fun hvalid hown => by
        simp [(hfollows hvalid).1 hown] at hfree
      exact ⟨hviol, halt, fun hvalid =>
        iff_of_true (Half.eq_other_iff.2 (hleft hvalid)) ⟨hidle, rfl⟩⟩
  | raised hbench => exact fun hno => by simp [hbench] at hno
  | idled | readBack | ignored | startFailed | transformed | loaded => exact hs

/-- Settles O53: every effect keeps the arbiter's and the clean invariant, by which the monitor after it
records nothing. -/
theorem cleanOwnershipIsKept : Obligations.CleanOwnershipIsKept := by
  intro s t harb hsession hengine hclean h
  refine step_gives (P := fun s => ArbiterInv s ∧ SessionInv s ∧ EngineInv s ∧ CleanInv s)
    (fun _ _ hs => hs) (fun _ _ ⟨_, _, _, hclean⟩ => hclean) (fun hs hu => ?_)
    ⟨harb, hsession, hengine, hclean⟩ h
  obtain ⟨harb, hsession, hengine, hclean⟩ := hs
  exact monitor_cleanInv (effect_arbiterInv harb hu)
    (effect_cleanInv harb hsession hengine hclean hu)

end Sys2Proof.Machine
end

section
/-! PROOF. The HOST operations: registers by their offsets and access classes, START by its cases, and what a START leaves fixed (42_session.md R94–R99, R101, R102; 10_state.md R27, R28). -/

namespace Sys2Proof

theorem Half.toBool_eq_decide (h : Half) : h.toBool = decide (h = .half1) := by
  cases h <;> rfl

/-- The registers of access class LOCKED-RW (10_state.md R27). -/
def Reg.lockedRw : Reg → Bool
  | .ctrl | .status | .frames => false
  | .inBase | .outBase | .inCh | .sampleRate | .bitDepth | .clkMult | .pins | .sclkOutEn => true

end Sys2Proof

namespace Sys2Proof.Machine

/-! Registers by their offsets (10_state.md R28). -/

theorem exec_regRead_of_mapped {widx : BitVec 8} {reg : Reg} (hreg : regOperand widx = some reg)
    (s : State) :
    exec (.regRead widx) s = .next (monitor { s with rd := s.rd ++ [readReg reg s] }) := by
  simp only [exec, execRegRead, hreg, taken]

theorem exec_regRead_of_unmapped {widx : BitVec 8} (hnone : regOperand widx = none) (s : State) :
    exec (.regRead widx) s = .next (refuse .regUnmapped s) := by
  simp only [exec, execRegRead, hnone, refusedStep]

theorem exec_regWrite_of_mapped {widx : BitVec 8} {reg : Reg} (hreg : regOperand widx = some reg)
    (data : Word) (s : State) :
    exec (.regWrite widx data) s = requestOutcome s (writeReg reg data s) := by
  simp only [exec, execRegWrite, hreg]

theorem exec_regWrite_of_unmapped {widx : BitVec 8} (hnone : regOperand widx = none) (data : Word)
    (s : State) : exec (.regWrite widx data) s = .next (refuse .regUnmapped s) := by
  simp only [exec, execRegWrite, hnone, refusedStep]

/-- Settles O11: each of the eleven offsets names a register, and none past them does. -/
theorem regReadAppendsTheRegister : Obligations.RegReadAppendsTheRegister := by
  refine ⟨fun _ => rfl, fun s => ?_⟩
  exact ⟨exec_regRead_of_mapped (reg := .ctrl) rfl s, exec_regRead_of_mapped (reg := .status) rfl s,
    exec_regRead_of_mapped (reg := .inBase) rfl s, exec_regRead_of_mapped (reg := .outBase) rfl s,
    exec_regRead_of_mapped (reg := .frames) rfl s, exec_regRead_of_mapped (reg := .inCh) rfl s,
    exec_regRead_of_mapped (reg := .sampleRate) rfl s,
    exec_regRead_of_mapped (reg := .bitDepth) rfl s, exec_regRead_of_mapped (reg := .clkMult) rfl s,
    exec_regRead_of_mapped (reg := .pins) rfl s, exec_regRead_of_mapped (reg := .sclkOutEn) rfl s,
    fun _ hwidx => exec_regRead_of_unmapped (regOperand_none hwidx) s⟩

/-! HOST_IDLE and the monitor. -/

/-- Where the monitor has been evaluated it records nothing more (41_arbiter.md R87). -/
theorem monitor_of_settled {s : State} (hsettled : MonitorSettled s) : monitor s = s := by
  have hviol : ownViolNow s = true → s.ownViol = true := fun hnow => by
    obtain ⟨hbench, hactive, hbusy, hsel⟩ := (ownViolNow_iff s).1 hnow
    exact hsettled hbench hactive hbusy hsel
  rw [monitor_eq, Bool.or_eq_left_iff_imp.2 hviol]

/-- Settles O10: HOST_IDLE is the monitor alone. -/
theorem hostIdleLeavesTheStateUnchanged : Obligations.HostIdleLeavesTheStateUnchanged := by
  have idle : ∀ s, exec .hostIdle s = .next (monitor s) := fun _ => rfl
  refine ⟨rfl, fun s => ⟨fun hsettled => ?settled, ?general⟩⟩
  case settled => rw [idle, monitor_of_settled hsettled]
  case general =>
    have hcond : ownViolNow s
        = (!s.par.bench && s.active && s.busy && decide (s.sel = s.teHalf)) := by
      unfold ownViolNow
      ac_rfl
    rw [idle, monitor_eq, hcond]

/-! The STATUS word. -/

theorem flagBit_getLsbD (b : Bool) {i : Nat} (hi : i < 32) (j : Nat) :
    (flagBit b i).getLsbD j = (b && decide (j = i)) := by
  cases b with
  | false => simp [flagBit]
  | true => simp [flagBit, ← BitVec.twoPow_eq, BitVec.getLsbD_twoPow, hi, eq_comm]

/-- Bit `j` of the STATUS word is the flag that 42_session.md R96 places there. -/
theorem statusWord_getLsbD (s : State) (j : Nat) :
    (statusWord s).getLsbD j =
      (s.active && decide (j = 0) || s.busy && decide (j = 1)
        || decide (s.sel = .half1) && decide (j = 2) || s.selValid && decide (j = 3)
        || s.cfgErr && decide (j = 4) || s.cmplFlag && decide (j = 5)) := by
  simp (disch := decide) only [statusWord, BitVec.getLsbD_or, flagBit_getLsbD,
    Half.toBool_eq_decide]

/-- Settles O12: the six flags stand at six different bits, all below 6. -/
theorem statusWordShowsTheFlags : Obligations.StatusWordShowsTheFlags := by
  intro s
  refine ⟨?_, ?_, ?_, ?_, ?_, ?_, fun i hi => ?above⟩
  case above =>
    have ne : ∀ k, k < 6 → i ≠ k := fun k hk => by omega
    simp [statusWord_getLsbD, ne]
  all_goals
    rw [statusWord_getLsbD]
    simp

/-! Register writes by access class (42_session.md R95). -/

theorem writeReg_of_lockedRw {reg : Reg} (hclass : reg.lockedRw = true) (data : Word)
    (s : State) : writeReg reg data s = writeLocked reg data s := by
  cases reg with
  | ctrl | status | frames => cases hclass
  | _ => rfl

/-- A LOCKED-RW register takes DATA before START. -/
theorem exec_regWrite_of_unlocked {widx : BitVec 8} {reg : Reg} {s : State}
    (hreg : regOperand widx = some reg) (hclass : reg.lockedRw = true)
    (hactive : s.active = false) (herr : s.cfgErr = false) (data : Word) :
    exec (.regWrite widx data) s = .next (monitor (storeReg reg data s)) := by
  rw [exec_regWrite_of_mapped hreg, writeReg_of_lockedRw hclass]
  simp [writeLocked, hactive, herr, requestOutcome, taken]

/-- The offsets of the LOCKED-RW registers (10_state.md R28). -/
theorem regOperand_lockedRw :
    ∀ widx ∈ [2#8, 3#8, 5#8, 6#8, 7#8, 8#8, 9#8, 10#8],
      (regOperand widx).any Reg.lockedRw = true := by
  decide

/-- After a START, successful or failed, every LOCKED-RW write is refused. -/
theorem exec_regWrite_of_locked {s : State} (hlock : s.active = true ∨ s.cfgErr = true)
    (data : Word) {widx : BitVec 8} (hwidx : widx ∈ [2#8, 3#8, 5#8, 6#8, 7#8, 8#8, 9#8, 10#8]) :
    exec (.regWrite widx data) s = .next (refuse .cfgLocked s) := by
  obtain ⟨reg, hreg, hclass⟩ := (Option.any_eq_true _ _).1 (regOperand_lockedRw widx hwidx)
  rw [exec_regWrite_of_mapped hreg, writeReg_of_lockedRw hclass]
  simp [writeLocked, hlock, requestOutcome, refusedStep]

/-- The mask of the registers without reserved bits. -/
theorem and_fullMask (data : Word) : data &&& 0xFFFFFFFF#32 = data := BitVec.and_allOnes

/-- The mask of IN_CH keeps the bits of its field. -/
theorem setWidth_and_inChMask (data : Word) :
    (data &&& 0x0000000F#32).setWidth 4 = data.setWidth 4 := by
  rw [BitVec.setWidth_and]
  exact BitVec.and_allOnes

/-- The mask of SCLK_OUT_EN keeps the bit of its field. -/
theorem setWidth_and_sclkOutEnMask (data : Word) :
    (data &&& 0x00000001#32).setWidth 1 = data.setWidth 1 := by
  rw [BitVec.setWidth_and]
  exact BitVec.and_allOnes

/-- A CTRL write whose bit 0 is 1 is START. -/
theorem exec_regWrite_ctrl_start {data : Word} (hbit : data.getLsbD 0 = true) (s : State) :
    exec (.regWrite 0#8 data) s = requestOutcome s (start s) := by
  rw [exec_regWrite_of_mapped (reg := .ctrl) rfl]
  simp only [writeReg, hbit, if_true]

/-- Settles O13: the offset names the register, whose access class says what a write does; under its mask
each LOCKED-RW register takes all the bits it has. -/
theorem regWriteFollowsTheAccessClass : Obligations.RegWriteFollowsTheAccessClass := by
  refine ⟨fun _ _ => rfl, fun s data => ⟨fun hactive herr => ?stored,
    fun hlock widx hwidx => exec_regWrite_of_locked hlock data hwidx,
    exec_regWrite_of_mapped (reg := .status) rfl data s,
    exec_regWrite_of_mapped (reg := .frames) rfl data s, fun hbit => ?ctrlIgnored,
    fun hbit => exec_regWrite_ctrl_start hbit s,
    fun _ hwidx => exec_regWrite_of_unmapped (regOperand_none hwidx) data s⟩⟩
  case stored =>
    have takesData : ∀ widx reg, regOperand widx = some reg → reg.lockedRw = true →
        exec (.regWrite widx data) s = .next (monitor (storeReg reg data s)) :=
      fun _ _ hreg hclass => exec_regWrite_of_unlocked hreg hclass hactive herr data
    rw [takesData 2#8 .inBase rfl rfl, takesData 3#8 .outBase rfl rfl, takesData 5#8 .inCh rfl rfl,
      takesData 6#8 .sampleRate rfl rfl, takesData 7#8 .bitDepth rfl rfl,
      takesData 8#8 .clkMult rfl rfl, takesData 9#8 .pins rfl rfl,
      takesData 10#8 .sclkOutEn rfl rfl]
    simp only [storeReg, wmask, and_fullMask, setWidth_and_inChMask, setWidth_and_sclkOutEnMask,
      and_self]
  case ctrlIgnored =>
    rw [exec_regWrite_of_mapped (reg := .ctrl) rfl]
    simp only [writeReg, hbit, Bool.false_eq_true, if_false]
    rfl

/-! START (42_session.md R97, R98). -/

theorem startOk_iff (s : State) : startOk s = true ↔ StartConditions s := by
  simp only [startOk_eq, Bool.and_eq_true, Bool.or_eq_true, decide_eq_true_eq, and_assoc]
  rfl

/-- Settles O15: `startOk` decides the conditions one by one, with `16 * N` the size of a region. -/
theorem startValidationIsTheList : Obligations.StartValidationIsTheList := startOk_iff

theorem start_of_locked {s : State} (hlock : s.active = true ∨ s.cfgErr = true) :
    start s = .error .startAgain := by
  simp [start, hlock]

theorem start_of_ptrAlt {s : State} (hactive : s.active = false) (herr : s.cfgErr = false)
    (hbench : s.par.bench = false) (hptr : s.par.ptrAlt = s.inBase) :
    start s = .error .ptrAlt := by
  simp [start, hactive, herr, hbench, hptr]

/-- A START that is not refused is decided by the validation. -/
theorem start_of_accepted {s : State} (hactive : s.active = false) (herr : s.cfgErr = false)
    (hptr : s.par.bench = false → s.par.ptrAlt ≠ s.inBase) :
    start s = .ok (if startOk s then startStreaming s else { s with cfgErr := true }) := by
  unfold start
  rw [if_neg (by simp [hactive, herr]), if_neg (by simpa using hptr), apply_ite Except.ok]

/-- The pointer contract of 43_transfer_interface.md R107 as a choice between two pointers. -/
theorem ptrWhileFilling_eq (h : Half) (s : State) :
    ptrWhileFilling h s = if h = .half1 then s.inBase else s.par.ptrAlt := by
  cases h <;> rfl

/-- Settles O16: START is its refusals, then the validation, then the mode's start of streaming. -/
theorem startFollowsItsCases : Obligations.StartFollowsItsCases := by
  refine ⟨rfl, fun s data hbit => ?_⟩
  rw [exec_regWrite_ctrl_start hbit]
  refine ⟨fun hlock => ?again, fun hactive herr hbench hptr => ?ptrAlt,
    fun hactive herr hptr hinvalid => ?failed, fun hactive herr hbench hvalid => ?bench,
    fun hactive herr hbench hptr hvalid => ?engine⟩
  case again => rw [start_of_locked hlock]; rfl
  case ptrAlt => rw [start_of_ptrAlt hactive herr hbench hptr]; rfl
  case failed =>
    rw [start_of_accepted hactive herr hptr, if_neg (mt (startOk_iff s).1 hinvalid)]
    rfl
  case bench =>
    rw [start_of_accepted hactive herr (by simp [hbench]), if_pos ((startOk_iff s).2 hvalid),
      startStreaming_bench hbench]
    rfl
  case engine =>
    rw [start_of_accepted hactive herr (fun _ => hptr), if_pos ((startOk_iff s).2 hvalid),
      startStreaming_engine hbench, ptrWhileFilling_eq]
    rfl

/-! After START (42_session.md R101). -/

/-- With CFG_ERR = 1 there is no START, the only effect that writes ACTIVE (10_state.md R18). -/
theorem effect_active_of_cfgErr {i : Instr} {s u : State} (h : Effect i s u)
    (hfailed : s.cfgErr = true) : u.active = s.active := by
  cases h with
  | started _ _ _ herr => simp [herr] at hfailed
  | stored _ _ herr => simp [herr] at hfailed
  | moved =>
    obtain ⟨_, _, _, _, _, e⟩ := advanceEngine_frame _
    rw [e]
  | _ => rfl

/-- A failed session stays failed. -/
theorem step_keeps_failed {s t : State} (hfailed : s.cfgErr = true) (hactive : s.active = false)
    (h : step s = .next t) : t.cfgErr = true ∧ t.active = false := by
  refine ⟨(step_keepsSticky h).cfgErr hfailed, ?_⟩
  refine step_gives (P := fun s => s.cfgErr = true ∧ s.active = false)
    (Q := fun s => s.active = false) (fun _ _ hs => hs) (fun _ _ hs => hs.2)
    (fun ⟨hfailed, hactive⟩ hu => ?_) ⟨hfailed, hactive⟩ h
  rw [monitor_active, effect_active_of_cfgErr hu hfailed, hactive]

/-- Settles O46: no step leaves the failed session; with ACTIVE = 0 the arbiter is idle and no autonomous
step is enabled, and CFG_ERR = 1 is the lock. -/
theorem failedStartIsFinal : Obligations.FailedStartIsFinal := by
  intro s harb hfailed hactive
  have hidle : s.busy = false :=
    Bool.eq_false_iff.2 fun hbusy => by simp [active_of_busy harb hbusy] at hactive
  refine ⟨fun t => step_keeps_failed hfailed hactive, ?sample, fun fidx => ?xframe, ?ack,
    fun l r hbench => (exec_teStep_eq_notEnabled_iff l r s).2 ⟨hbench, hactive⟩,
    fun d hbit => ?again, fun d widx => exec_regWrite_of_locked (.inr hfailed) d⟩
  case sample => simp [exec_arbSample_eq_notEnabled_iff, sampleEnabled_iff, hactive]
  case xframe => simp [exec_arbXframe_eq_notEnabled_iff, xframeEnabled_iff, hidle]
  case ack => simp [exec_arbAck_eq_notEnabled_iff, ackEnabled_iff, hidle]
  case again => rw [exec_regWrite_ctrl_start hbit, start_of_locked (.inr hfailed)]; rfl

/-- START begins a session only on a configuration it accepts, and counts it; while streaming no effect
writes the configuration, CFG_ERR or the count, and a session never ends (42_session.md R97, R101). -/
theorem effect_sessionInv {i : Instr} {s u : State} (hs : SessionInv s) (h : Effect i s u) :
    SessionInv u := by
  have ⟨hstreaming, hcount⟩ := hs
  cases h with
  | started _ _ hactive herr hptr hok =>
    obtain ⟨_, _, _, e⟩ := startStreaming_frame s
    have hnone : s.starts = 0 := by simpa [hactive] using hcount
    rw [e]
    exact ⟨fun _ => ⟨herr, (startOk_iff s).1 hok, hptr⟩, congrArg (· + 1) hnone⟩
  | startFailed _ _ hactive =>
    exact ⟨fun hstarted => by simp [hactive] at hstarted, hcount⟩
  | stored _ hactive =>
    obtain ⟨_, _, _, _, _, _, _, _, e⟩ := storeReg_frame _ _ s
    rw [e]
    exact ⟨fun hstarted => by simp [hactive] at hstarted, hcount⟩
  | moved =>
    obtain ⟨_, _, _, _, _, e⟩ := advanceEngine_frame _
    rw [e]
    exact hs
  | idled | readBack | ignored | sampled | transformed | acked | loaded | raised => exact hs

theorem monitor_sessionInv {s : State} (hs : SessionInv s) : SessionInv (monitor s) := by
  rw [monitor_eq]
  exact hs

/-- Settles O51: a refusal and the monitor leave what a session is made of, and every effect keeps the
invariant. -/
theorem streamingSessionStaysValid : Obligations.StreamingSessionStaysValid := fun _ _ =>
  step_gives (fun _ _ hs => hs) (fun _ _ hs => hs)
    (fun hs hu => monitor_sessionInv (effect_sessionInv hs hu))

end Sys2Proof.Machine
end

section
/-! PROOF. The reference transfer engine: the input pointer contract under every step, one TE_STEP by its rule, and the N steps that complete a half (43_transfer_interface.md R106–R109). -/

namespace Sys2Proof.Machine

/-! The pointer contract. -/

theorem ptrWhileFilling_contract (h : Half) (s : State) :
    (h = .half1 → ptrWhileFilling h s = s.inBase)
      ∧ (h = .half0 → ptrWhileFilling h s = s.par.ptrAlt) := by
  cases h <;> simp [ptrWhileFilling]

/-- START puts the engine at frame 0 of its first half with that half's pointer, a completion moves it to
frame 0 of the other half with the other half's, and no other effect moves position or pointer while the
engine runs (42_session.md R97; 43_transfer_interface.md R107, R108). -/
theorem effect_engineInv {i : Instr} {s u : State} (hs : EngineInv s) (h : Effect i s u) :
    EngineInv u := by
  have ⟨hpos, hcontract⟩ := hs
  cases h with
  | started =>
    cases hb : s.par.bench
    · rw [startStreaming_engine hb]
      exact ⟨s.par.n_pos, fun _ _ => ptrWhileFilling_contract _ _⟩
    · rw [startStreaming_bench hb]
      exact ⟨hpos, fun _ hno => by simp [hb] at hno⟩
  | stored _ hactive =>
    obtain ⟨_, _, _, _, _, _, _, _, e⟩ := storeReg_frame _ _ s
    rw [e]
    exact ⟨hpos, fun hstarted => by simp [hactive] at hstarted⟩
  | moved =>
    rcases advanceEngine_cases _ with ⟨hlt, e⟩ | ⟨-, e⟩ <;> rw [e]
    · exact ⟨(idx_toNat hlt.le).trans_lt hlt, hcontract⟩
    · exact ⟨s.par.n_pos, fun _ _ => ptrWhileFilling_contract _ _⟩
  | raised hbench => exact ⟨hpos, fun _ hno => by simp [hbench] at hno⟩
  | idled | readBack | ignored | startFailed | sampled | transformed | acked | loaded => exact hs

theorem monitor_engineInv {s : State} (hs : EngineInv s) : EngineInv (monitor s) := by
  rw [monitor_eq]
  exact hs

/-- Settles O52: a refusal and the monitor leave the engine and its pointer, and every effect keeps the
invariant. -/
theorem pointerContractIsKept : Obligations.PointerContractIsKept := fun _ _ =>
  step_gives (fun _ _ hs => hs) (fun _ _ hs => hs)
    (fun hs hu => monitor_engineInv (effect_engineInv hs hu))

/-! One TE_STEP. -/

/-- The state after a TE_STEP's accesses and before its advance: `received` stands in the input frame at the
engine's position, and `sent` has been transmitted (43_transfer_interface.md R108). -/
def State.withMoved (s : State) (received sent : Frame) (draws : Nat) : State :=
  { s with
    mem := (writeFrame s.inBase s.teHalf s.tePos.toNat received s).mem
    draws := draws
    tx := s.tx ++ [sent] }

/-- Everything a TE_STEP does while streaming: the frame sent is the one in memory where its samples are
written, then come the advance and the monitor. -/
theorem exec_teStep_streaming {s : State} (hbench : s.par.bench = false) (hactive : s.active = true)
    (rxl rxr : Word) :
    ∃ sent d,
      (∀ l, (s.withMoved ⟨rxl, rxr⟩ sent d).wordAt (saddr s.par s.outBase s.teHalf s.tePos.toNat 0)
        = some l → sent.l = l)
      ∧ (∀ r, (s.withMoved ⟨rxl, rxr⟩ sent d).wordAt
          (saddr s.par s.outBase s.teHalf s.tePos.toNat 1) = some r → sent.r = r)
      ∧ exec (.teStep rxl rxr) s
        = .next (monitor (advanceEngine (s.withMoved ⟨rxl, rxr⟩ sent d))) := by
  obtain ⟨sent, d, hl, hr, e⟩ := moveFrame_spec ⟨rxl, rxr⟩ s
  refine ⟨sent, d, hl, hr, ?_⟩
  rw [exec_teStep_of_engine hbench, if_pos (c := teEnabled s = true) hactive, e]
  rfl

@[simp] theorem advanceEngine_mem (s : State) : (advanceEngine s).mem = s.mem := by
  unfold advanceEngine; split <;> rfl

@[simp] theorem advanceEngine_par (s : State) : (advanceEngine s).par = s.par := by
  unfold advanceEngine; split <;> rfl

@[simp] theorem advanceEngine_tx (s : State) : (advanceEngine s).tx = s.tx := by
  unfold advanceEngine; split <;> rfl

@[simp] theorem advanceEngine_ownViol (s : State) : (advanceEngine s).ownViol = s.ownViol := by
  unfold advanceEngine; split <;> rfl

@[simp] theorem advanceEngine_inBase (s : State) : (advanceEngine s).inBase = s.inBase := by
  unfold advanceEngine; split <;> rfl

@[simp] theorem advanceEngine_outBase (s : State) : (advanceEngine s).outBase = s.outBase := by
  unfold advanceEngine; split <;> rfl

theorem advanceEngine_inside {s : State} (hlt : s.tePos.toNat + 1 < s.par.n) :
    advanceEngine s = { s with tePos := BitVec.ofNat 16 (s.tePos.toNat + 1) } := by
  rw [advanceEngine, if_pos hlt]

/-- At the last frame of a half (43_transfer_interface.md R107, R108). -/
theorem advanceEngine_last {s : State} (hlast : s.par.n ≤ s.tePos.toNat + 1) :
    advanceEngine s = { s with
      tePos := 0#16
      teHalf := s.teHalf.other
      inPtr := if s.teHalf = .half0 then s.inBase else s.par.ptrAlt
      evtLost := s.evtLost || s.cmplFlag
      cmplFlag := true } := by
  rw [advanceEngine, if_neg (Nat.not_lt.2 hlast)]
  cases hhalf : s.teHalf <;> rfl

theorem ownViolNow_monitor (s : State) : ownViolNow (monitor s) = ownViolNow s := by
  simp [ownViolNow]

/-- Settles O28: the accesses are one frame write and one frame read, and the two cases of the advance
are those of the rule. -/
theorem teStepMovesOneFrameEachWay : Obligations.TeStepMovesOneFrameEachWay := by
  refine ⟨fun _ _ => rfl, fun s rxl rxr => ⟨fun hbench => exec_teStep_of_bench hbench rxl rxr,
    fun hbench hactive => (exec_teStep_eq_notEnabled_iff rxl rxr s).2 ⟨hbench, hactive⟩,
    fun hbench hactive hfit _ => ?taken⟩⟩
  obtain ⟨sent, d, hl, hr, e⟩ := exec_teStep_streaming hbench hactive rxl rxr
  have hmem : (monitor (advanceEngine (s.withMoved ⟨rxl, rxr⟩ sent d))).mem
      = (writeFrame s.inBase s.teHalf s.tePos.toNat ⟨rxl, rxr⟩ s).mem := by
    rw [monitor_mem, advanceEngine_mem]; rfl
  have hpar : (monitor (advanceEngine (s.withMoved ⟨rxl, rxr⟩ sent d))).par = s.par := by
    rw [monitor_par, advanceEngine_par]; rfl
  have hword (a : Nat) : (monitor (advanceEngine (s.withMoved ⟨rxl, rxr⟩ sent d))).wordAt a
      = (s.withMoved ⟨rxl, rxr⟩ sent d).wordAt a := by simp [State.wordAt]
  refine ⟨_, sent, e, ?received, fun l h => hl l ((hword _).symm.trans h),
    fun r h => hr r ((hword _).symm.trans h), fun a ha => ?outside, ?viol, fun hlt => ?inside,
    fun hlast => ?last⟩
  case received =>
    rw [frameAt_congr (s := writeFrame s.inBase s.teHalf s.tePos.toNat ⟨rxl, rxr⟩ s) hpar hmem]
    exact writeFrame_frameAt_same _ hfit
  case outside => exact (byteAt_of_mem_eq hmem a).trans (writeFrame_byteAt_other hfit ha)
  case viol =>
    rw [ownViolNow_monitor, monitor_ownViol, advanceEngine_ownViol]
    rfl
  case inside =>
    rw [advanceEngine_inside (s := s.withMoved _ sent d) hlt, monitor_eq]
    rfl
  case last =>
    rw [advanceEngine_last (s := s.withMoved _ sent d) hlast, monitor_eq]
    rfl

/-! Frames of one region and of the other. -/

/-- A frame below N of a region inside the address space ends inside the address space. -/
theorem frame_fits {p : Params} {base : Word} {h : Half} {i : Nat}
    (hfit : base.toNat + 16 * p.n ≤ 2 ^ 32) (hi : i < p.n) : saddr p base h i 1 + 4 ≤ 2 ^ 32 := by
  obtain ⟨-, htop⟩ := saddr_le p base h hi (c := 1) (by decide)
  omega

/-- Different frames of one region lie apart. -/
theorem frames_apart (p : Params) (base : Word) {h h' : Half} {i j : Nat} (hi : i < p.n)
    (hj : j < p.n) (hne : h' = h → j ≠ i) :
    saddr p base h' j 0 + 8 ≤ saddr p base h i 0 ∨ saddr p base h i 0 + 8 ≤ saddr p base h' j 0 := by
  rcases eq_or_ne h' h with rfl | hhalf
  · exact (Nat.lt_or_gt_of_ne (hne rfl)).imp (saddr_before p base h') (saddr_before p base h')
  · cases h <;> cases h' <;> simp only [saddr_half0, saddr_half1, ne_eq, not_true] at hhalf ⊢ <;>
      omega

/-- Another frame of the region written into reads as before. -/
theorem writeFrame_frameAt_region {base : Word} {h h' : Half} {i j : Nat} {f : Frame} {s : State}
    (hfit : base.toNat + 16 * s.par.n ≤ 2 ^ 32) (hi : i < s.par.n) (hj : j < s.par.n)
    (hne : h' = h → j ≠ i) : (writeFrame base h i f s).frameAt base h' j = s.frameAt base h' j :=
  writeFrame_frameAt_other (frame_fits hfit hi) (frame_fits hfit hj)
    (frames_apart s.par base hi hj hne)

/-- While streaming, the engine's write leaves the output frames. -/
theorem writeFrame_input_frameAt_output {s : State} (hsession : SessionInv s)
    (hactive : s.active = true) {h h' : Half} {i j : Nat} (f : Frame) (hi : i < s.par.n)
    (hj : j < s.par.n) :
    (writeFrame s.inBase h i f s).frameAt s.outBase h' j = s.frameAt s.outBase h' j := by
  obtain ⟨hfitIn, hfitOut⟩ := regions_fit_of_active hsession hactive
  exact writeFrame_frameAt_other (frame_fits hfitIn hi) (frame_fits hfitOut hj)
    (input_apart_output hsession hactive h h' hi hj).symm

/-- `t` has the memory of `s` after the engine has received `f`: the frame at the engine's position is `f`,
and every other frame, and every byte outside the engine's input half, reads as before. -/
structure ReceivesFrame (s t : State) (f : Frame) : Prop where
  here : t.frameAt s.inBase s.teHalf s.tePos.toNat = some f
  input : ∀ h i, i < s.par.n → (h = s.teHalf → i ≠ s.tePos.toNat) →
    t.frameAt s.inBase h i = s.frameAt s.inBase h i
  output : ∀ h i, i < s.par.n → t.frameAt s.outBase h i = s.frameAt s.outBase h i
  outside : ∀ a, ¬ inHalf s.par s.inBase s.teHalf a → t.byteAt a = s.byteAt a

theorem receivesFrame_of_mem {s t : State} {f : Frame} (hsession : SessionInv s)
    (hactive : s.active = true) (hpos : s.tePos.toNat < s.par.n) (hpar : t.par = s.par)
    (hmem : t.mem = (writeFrame s.inBase s.teHalf s.tePos.toNat f s).mem) : ReceivesFrame s t f := by
  obtain ⟨hfit, -⟩ := regions_fit_of_active hsession hactive
  have hframe := frameAt_congr (s := writeFrame s.inBase s.teHalf s.tePos.toNat f s) hpar hmem
  exact {
    here := (hframe _ _ _).trans (writeFrame_frameAt_same f (frame_fits hfit hpos))
    input := fun h i hi hne => (hframe _ _ _).trans (writeFrame_frameAt_region hfit hpos hi hne)
    output := fun h i hi =>
      (hframe _ _ _).trans (writeFrame_input_frameAt_output hsession hactive f hpos hi)
    outside := fun a ha =>
      (byteAt_of_mem_eq hmem a).trans (writeFrame_byteAt_outside_half hfit hpos ha) }

theorem exec_teStep_receivesFrame {s t : State} {f : Frame} (hsession : SessionInv s)
    (hactive : s.active = true) (hbench : s.par.bench = false) (hpos : s.tePos.toNat < s.par.n)
    (h : exec (.teStep f.l f.r) s = .next t) : ReceivesFrame s t f := by
  obtain ⟨sent, d, -, -, e⟩ := exec_teStep_streaming hbench hactive f.l f.r
  obtain rfl := Host.Outcome.next.inj (e.symm.trans h)
  refine receivesFrame_of_mem hsession hactive hpos ?par ?mem
  case par => rw [monitor_par, advanceEngine_par]; rfl
  case mem => rw [monitor_mem, advanceEngine_mem]; rfl

/-! N TE_STEPs in a row. -/

theorem monitor_frame (s : State) : ∃ viol, monitor s = { s with ownViol := viol } :=
  ⟨_, monitor_eq s⟩

/-- `t` is the state after the frames `fs` have moved, from `s` to the end of the engine's half. -/
structure CompletesHalf (s t : State) (fs : List Frame) : Prop where
  received : ∀ i f, fs[i]? = some f →
    t.frameAt s.inBase s.teHalf (s.tePos.toNat + i) = some f
  earlier : ∀ i, i < s.tePos.toNat →
    t.frameAt s.inBase s.teHalf i = s.frameAt s.inBase s.teHalf i
  outside : ∀ a, ¬ inHalf s.par s.inBase s.teHalf a → t.byteAt a = s.byteAt a
  sent : t.tx.length = s.tx.length + fs.length
  teHalf : t.teHalf = s.teHalf.other
  tePos : t.tePos = 0#16
  inPtr : t.inPtr = if s.teHalf = .half0 then s.inBase else s.par.ptrAlt
  cmplFlag : t.cmplFlag = true
  evtLost : t.evtLost = (s.evtLost || s.cmplFlag)

/-- A TE_STEP at the last frame of a half completes it. -/
theorem exec_teStep_last {s : State} (f : Frame) (hsession : SessionInv s) (hactive : s.active = true)
    (hbench : s.par.bench = false) (hlast : s.tePos.toNat + 1 = s.par.n) :
    ∃ t, exec (.teStep f.l f.r) s = .next t ∧ CompletesHalf s t [f] := by
  have hpos : s.tePos.toNat < s.par.n := by omega
  obtain ⟨sent, d, -, -, e⟩ := exec_teStep_streaming hbench hactive f.l f.r
  obtain ⟨viol, hviol⟩ := monitor_frame (advanceEngine (s.withMoved f sent d))
  rw [hviol, advanceEngine_last (s := s.withMoved f sent d) hlast.ge] at e
  refine ⟨_, e, ?_⟩
  have hm := exec_teStep_receivesFrame hsession hactive hbench hpos e
  refine ⟨fun i g hg => ?received, fun i hi => ?earlier, hm.outside, List.length_append, rfl, rfl,
    rfl, rfl, rfl⟩
  case received =>
    obtain ⟨rfl, rfl⟩ : i = 0 ∧ f = g := by simpa [List.getElem?_singleton] using hg
    exact hm.here
  case earlier => exact hm.input _ i (hi.trans hpos) fun _ => hi.ne

/-- `u` is the state after `f` has moved, in `s`, before the last frame of a half: no completion is raised,
and the engine has gone one frame on. -/
structure MovesInside (s u : State) (f : Frame) : Prop where
  receives : ReceivesFrame s u f
  par : u.par = s.par
  inBase : u.inBase = s.inBase
  sent : u.tx.length = s.tx.length + 1
  teHalf : u.teHalf = s.teHalf
  tePos : u.tePos.toNat = s.tePos.toNat + 1
  cmplFlag : u.cmplFlag = s.cmplFlag
  evtLost : u.evtLost = s.evtLost

theorem exec_teStep_inside {s : State} (f : Frame) (hsession : SessionInv s) (hactive : s.active = true)
    (hbench : s.par.bench = false) (hlt : s.tePos.toNat + 1 < s.par.n) :
    ∃ u, exec (.teStep f.l f.r) s = .next u ∧ SessionInv u ∧ u.active = true ∧ MovesInside s u f := by
  have hpos : s.tePos.toNat < s.par.n := by omega
  obtain ⟨sent, d, -, -, e⟩ := exec_teStep_streaming hbench hactive f.l f.r
  obtain ⟨viol, hviol⟩ := monitor_frame (advanceEngine (s.withMoved f sent d))
  rw [hviol, advanceEngine_inside (s := s.withMoved f sent d) hlt] at e
  exact ⟨_, e, hsession, hactive, {
    receives := exec_teStep_receivesFrame hsession hactive hbench hpos e
    par := rfl
    inBase := rfl
    sent := List.length_append
    teHalf := rfl
    tePos := idx_toNat hlt.le
    cmplFlag := rfl
    evtLost := rfl }⟩

/-- A frame, and then a run that completes the half, complete it together. -/
theorem MovesInside.completesHalf {s u t : State} {f : Frame} {fs : List Frame}
    (hu : MovesInside s u f) (hlt : s.tePos.toNat + 1 < s.par.n) (ht : CompletesHalf u t fs) :
    CompletesHalf s t (f :: fs) := by
  have ⟨hreceived, hearlier, houtside, hsent, hhalf, hpos, hptr, hflag, hlost⟩ := ht
  rw [hu.inBase, hu.teHalf, hu.tePos] at hreceived hearlier
  rw [hu.par, hu.inBase, hu.teHalf] at houtside hptr
  rw [hu.sent] at hsent
  rw [hu.teHalf] at hhalf
  rw [hu.evtLost, hu.cmplFlag] at hlost
  refine ⟨fun i g hg => ?received, fun i hi => ?earlier,
    fun a ha => (houtside a ha).trans (hu.receives.outside a ha), ?sent, hhalf, hpos, hptr, hflag,
    hlost⟩
  case received =>
    cases i with
    | zero =>
      obtain rfl : f = g := by simpa using hg
      exact (hearlier _ (Nat.lt_succ_self _)).trans hu.receives.here
    | succ i =>
      have hthere := hreceived i g hg
      rwa [Nat.add_right_comm] at hthere
  case earlier =>
    exact (hearlier i (hi.trans (Nat.lt_succ_self _))).trans
      (hu.receives.input _ i (by omega) fun _ => hi.ne)
  case sent => rw [hsent, List.length_cons]; omega

/-- Frames up to the end of the half complete it, each but the last one inside it. -/
theorem execAll_teSteps (f : Frame) (fs : List Frame) {s : State} (hsession : SessionInv s)
    (hactive : s.active = true) (hbench : s.par.bench = false)
    (hlen : s.tePos.toNat + (f :: fs).length = s.par.n) :
    ∃ t, execAll ((f :: fs).map fun g => .teStep g.l g.r) s = .next t
      ∧ CompletesHalf s t (f :: fs) := by
  induction fs generalizing f s with
  | nil =>
    obtain ⟨t, e, ht⟩ := exec_teStep_last f hsession hactive hbench hlen
    exact ⟨t, (execAll_singleton _ s).trans e, ht⟩
  | cons g gs ih =>
    simp only [List.length_cons] at hlen
    have hlt : s.tePos.toNat + 1 < s.par.n := by omega
    obtain ⟨u, e, husession, huactive, hu⟩ := exec_teStep_inside f hsession hactive hbench hlt
    obtain ⟨t, et, ht⟩ := ih g husession huactive (by rw [hu.par, hbench])
      (by rw [hu.tePos, hu.par, List.length_cons]; omega)
    exact ⟨t, (execAll_cons e _).trans et, hu.completesHalf hlt ht⟩

/-- Settles O29: a half has at least one frame, and N frames from its start go to its end. -/
theorem engineCompletesAHalfInNSteps : Obligations.EngineCompletesAHalfInNSteps := by
  intro s fs hsession hactive hbench hstart hlen
  have hpos : s.tePos.toNat = 0 := by simp [hstart]
  cases fs with
  | nil => exact absurd hlen s.par.n_pos.ne
  | cons f fs =>
    obtain ⟨t, e, ht⟩ := execAll_teSteps f fs hsession hactive hbench (by rw [hpos, hlen, zero_add])
    refine ⟨t, e, fun i g hg => ?received, ht.outside, ?sent, ht.teHalf, ht.tePos, ht.inPtr,
      ht.cmplFlag, ht.evtLost⟩
    case received => simpa [hpos] using ht.received i g hg
    case sent => rw [ht.sent, hlen]

end Sys2Proof.Machine
end

section
/-! PROOF. The BENCH operations by their rules, and what bench mode leaves of the transfer engine: nothing that a step reads or moves (30_encoding.md R64; 43_transfer_interface.md R112–R114). -/

namespace Sys2Proof.Machine

/-! The bench's two operations. -/

theorem exec_benchLoad_of_refused {buf : Buf} {kidx : Word} {s : State} {reason : RefuseReason}
    (value : Word) (href : benchLoadRefusal buf kidx s = some reason) :
    exec (.benchLoad buf kidx value) s = .next (refuse reason s) := by
  simp only [exec, execBenchLoad, href, refusedStep]

/-- Settles O32: the conditions of `benchLoadRefusal` are tested in the order of the rule, and a load that
meets none of them is one word write, inside the address space because the address is word-aligned. -/
theorem benchLoadWritesOneWord : Obligations.BenchLoadWritesOneWord := by
  refine ⟨fun k v => ⟨rfl, rfl⟩, fun s buf k v base hbase => ?_⟩
  obtain rfl : bufBase buf s = base := by cases buf <;> exact hbase.symm
  refine ⟨fun hbench => exec_benchLoad_of_refused v ?mode,
    fun hbench hk => exec_benchLoad_of_refused v ?pastRegion,
    fun hbench hk ha => exec_benchLoad_of_refused v ?pastTop,
    fun hbench hk ha hbusy hhalf => exec_benchLoad_of_refused v ?owned,
    fun hbench hk ha halign hfree => ?written⟩
  case mode => simp [benchLoadRefusal, hbench]
  case pastRegion => simp [benchLoadRefusal, hbench, hk]
  case pastTop =>
    rw [benchLoadRefusal, if_neg (by simp [hbench]), if_neg (by omega), if_pos (by exact ha)]
  case owned =>
    rw [benchLoadRefusal, if_neg (by simp [hbench]), if_neg (by omega), if_neg (by exact Nat.not_le.2 ha),
      if_pos (by simp [hbusy, halfOfSample, hhalf])]
  case written =>
    have haddr : benchAddr (bufBase buf s) k % 4 = 0 := by simp only [benchAddr]; omega
    exact ⟨_, exec_benchLoad_of_accepted v (benchLoadRefusal_eq_none hbench hk ha hfree),
      memWrite_wordAt_same _ v s, fun a hout => memWrite_byteAt_other haddr ha hout, rfl⟩

/-- Settles O34: the refusals are the mode's and the session's, and a raise is a completion with the pointer
given; in bench mode the monitor adds nothing to it. -/
theorem benchRaisePresentsThePointer : Obligations.BenchRaisePresentsThePointer := by
  refine ⟨fun _ => rfl, fun s ptr => ⟨fun hbench => ?mode, fun hbench hactive => ?inactive,
    fun hbench hactive => ?raised⟩⟩
  case mode => simp [exec, execBenchRaise, benchRaiseRefusal, refusedStep, hbench]
  case inactive => simp [exec, execBenchRaise, benchRaiseRefusal, refusedStep, hbench, hactive]
  case raised =>
    have hno : benchRaiseRefusal s = none := by simp [benchRaiseRefusal, hbench, hactive]
    simp only [exec, execBenchRaise, hno, taken]
    rw [monitor_of_bench (s := raiseCompletion ptr s) hbench]
    rfl

/-! Bench mode and the engine's position. -/

/-- The state with the engine elsewhere. -/
def State.withEngine (s : State) (half : Half) (pos : BitVec 16) : State :=
  { s with teHalf := half, tePos := pos }

theorem memRead_withEngine (a : Nat) (s : State) (half : Half) (pos : BitVec 16) :
    memRead a (s.withEngine half pos) = ((memRead a s).1, (memRead a s).2.withEngine half pos) := by
  have hword : (s.withEngine half pos).wordAt a = s.wordAt a := rfl
  simp only [memRead, hword]
  cases s.wordAt a <;> rfl

theorem transformFrame_withEngine (i : Nat) (s : State) (half : Half) (pos : BitVec 16) :
    transformFrame i (s.withEngine half pos) = (transformFrame i s).withEngine half pos := by
  have hpar (u : State) : (u.withEngine half pos).par = u.par := rfl
  simp only [transformFrame, readFrame, memRead_withEngine, hpar]
  rfl

theorem writeLocked_withEngine (reg : Reg) (data : Word) (s : State) (half : Half) (pos : BitVec 16) :
    writeLocked reg data (s.withEngine half pos)
      = (writeLocked reg data s).map fun t => t.withEngine half pos := by
  have hstore : storeReg reg data (s.withEngine half pos)
      = (storeReg reg data s).withEngine half pos := by cases reg <;> rfl
  unfold writeLocked
  rw [hstore]
  change (if s.active || s.cfgErr then _ else _) = _
  split <;> rfl

/-- Bench mode has no synchronized start of the engine (42_session.md R97). -/
theorem start_withEngine {s : State} (hbench : s.par.bench = true) (half : Half) (pos : BitVec 16) :
    start (s.withEngine half pos) = (start s).map fun t => t.withEngine half pos := by
  have hstream : startStreaming (s.withEngine half pos)
      = (startStreaming s).withEngine half pos := by
    rw [startStreaming_bench hbench, startStreaming_bench (s := s.withEngine half pos) hbench]
    rfl
  unfold start
  rw [hstream]
  change (if s.active || s.cfgErr then _
    else if !s.par.bench && decide (s.par.ptrAlt = s.inBase) then _
    else if startOk s then _ else _) = _
  split
  · rfl
  · split
    · rfl
    · split <;> rfl

theorem writeReg_withEngine (reg : Reg) (data : Word) {s : State} (hbench : s.par.bench = true)
    (half : Half) (pos : BitVec 16) :
    writeReg reg data (s.withEngine half pos)
      = (writeReg reg data s).map fun t => t.withEngine half pos := by
  cases reg with
  | ctrl =>
    simp only [writeReg, start_withEngine hbench]
    split <;> rfl
  | status => rfl
  | frames => rfl
  | _ => exact writeLocked_withEngine _ _ _ _ _

theorem writeReg_par {reg : Reg} {data : Word} {s u : State} (h : writeReg reg data s = .ok u) :
    u.par = s.par := by
  obtain rfl | ⟨-, -, rfl⟩ | ⟨-, -, hstart⟩ := writeReg_ok h
  · rfl
  · obtain ⟨_, _, _, _, _, _, _, _, e⟩ := storeReg_frame reg data s
    rw [e]
  · obtain ⟨-, -, -, ⟨-, rfl⟩ | ⟨-, rfl⟩⟩ := start_ok hstart
    · obtain ⟨_, _, _, e⟩ := startStreaming_frame s
      rw [e]
    · rfl

/-- The outcomes of a step for every position of the engine: one next state but for the position, which
stays, or no step. -/
inductive EngineUnread (o : Half → BitVec 16 → Host.Outcome State Fault Refusal) : Prop
  | next (u : State) (h : ∀ half pos, o half pos = .next (u.withEngine half pos))
  | absent (h : ∀ half pos, o half pos = .refused .notEnabled)

/-- In bench mode the monitor is inactive, so it does not read TE_HALF. -/
theorem engineUnread_taken {t : Half → BitVec 16 → State} (u : State) (hbench : u.par.bench = true)
    (h : ∀ half pos, t half pos = u.withEngine half pos) :
    EngineUnread fun half pos => taken (t half pos) :=
  .next u fun half pos => by
    rw [h, taken, monitor_of_bench (s := u.withEngine half pos) hbench]

theorem engineUnread_guarded {c : Bool} {t : Half → BitVec 16 → State} (u : State)
    (hbench : u.par.bench = true) (h : ∀ half pos, t half pos = u.withEngine half pos) :
    EngineUnread fun half pos => if c then taken (t half pos) else .refused .notEnabled := by
  cases c with
  | false => exact .absent fun half pos => rfl
  | true => exact engineUnread_taken u hbench h

theorem engineUnread_refused (reason : RefuseReason) (s : State) :
    EngineUnread fun half pos => refusedStep reason (s.withEngine half pos) :=
  .next (refuse reason s) fun _ _ => rfl

/-- In bench mode no step reads or moves the engine's position. -/
theorem exec_engineUnread (i : Instr) {s : State} (hbench : s.par.bench = true) :
    EngineUnread fun half pos => exec i (s.withEngine half pos) := by
  cases i with
  | hostIdle => exact engineUnread_taken s hbench fun half pos => rfl
  | regRead widx =>
    simp only [exec, execRegRead]
    cases regOperand widx with
    | none => exact engineUnread_refused .regUnmapped s
    | some reg =>
      exact engineUnread_taken { s with rd := s.rd ++ [readReg reg s] } hbench
        fun half pos => by cases reg <;> rfl
  | regWrite widx data =>
    simp only [exec, execRegWrite]
    cases regOperand widx with
    | none => exact engineUnread_refused .regUnmapped s
    | some reg =>
      simp only [writeReg_withEngine reg data hbench]
      cases hwrite : writeReg reg data s with
      | ok u => exact engineUnread_taken u ((writeReg_par hwrite).symm ▸ hbench) fun half pos => rfl
      | error reason => exact engineUnread_refused reason s
  | arbSample =>
    exact engineUnread_guarded (c := sampleEnabled s) (enterArbiter s) hbench fun half pos => rfl
  | arbXframe fidx =>
    obtain ⟨_, _, -, -, e⟩ := transformFrame_spec fidx.toNat s
    exact engineUnread_guarded (c := xframeEnabled fidx s) (transformFrame fidx.toNat s)
      (by rw [e]; exact hbench) (transformFrame_withEngine fidx.toNat s)
  | arbAck =>
    exact engineUnread_guarded (c := ackEnabled s) (leaveArbiter s) hbench fun half pos => rfl
  | teStep rxl rxr =>
    exact .next (refuse .mode s) fun half pos =>
      exec_teStep_of_bench (s := s.withEngine half pos) hbench rxl rxr
  | benchLoad buf kidx value =>
    have href (half : Half) (pos : BitVec 16) :
        benchLoadRefusal buf kidx (s.withEngine half pos) = benchLoadRefusal buf kidx s := by
      cases buf <;> rfl
    simp only [exec, execBenchLoad, href]
    cases benchLoadRefusal buf kidx s with
    | none =>
      exact engineUnread_taken (memWrite (benchAddr (bufBase buf s) kidx) value s) hbench
        fun half pos => by cases buf <;> rfl
    | some reason => exact engineUnread_refused reason s
  | benchRaise ptr =>
    have href (half : Half) (pos : BitVec 16) :
        benchRaiseRefusal (s.withEngine half pos) = benchRaiseRefusal s := rfl
    simp only [exec, execBenchRaise, href]
    cases benchRaiseRefusal s with
    | none => exact engineUnread_taken (raiseCompletion ptr s) hbench fun half pos => rfl
    | some reason => exact engineUnread_refused reason s

/-- Only a TE_STEP with the engine present transmits (43_transfer_interface.md R108). -/
theorem effect_tx_of_bench {i : Instr} {s u : State} (hbench : s.par.bench = true)
    (h : Effect i s u) : u.tx = s.tx := by
  cases h with
  | stored =>
    obtain ⟨_, _, _, _, _, _, _, _, e⟩ := storeReg_frame _ _ s
    rw [e]
  | started => rw [startStreaming_bench hbench]
  | moved _ _ hengine => simp [hbench] at hengine
  | _ => rfl

/-- Settles O35: a step does the same from every position of the engine, its own among them, and keeps the
position; only the engine transmits, and the monitor is inactive. -/
theorem benchModeHasNoEngine : Obligations.BenchModeHasNoEngine := by
  intro i s t hbench h
  obtain ⟨u, hu⟩ | ⟨habsent⟩ := exec_engineUnread i hbench
  · obtain rfl : u.withEngine s.teHalf s.tePos = t :=
      Host.Outcome.next.inj ((hu s.teHalf s.tePos).symm.trans h)
    obtain ⟨htx, hviol⟩ : (u.withEngine s.teHalf s.tePos).tx = s.tx
        ∧ (u.withEngine s.teHalf s.tePos).ownViol = s.ownViol := by
      obtain ⟨reason, e⟩ | ⟨v, hv, e⟩ := exec_next h
      · rw [e]
        exact ⟨rfl, rfl⟩
      · rw [e, monitor_of_bench ((effect_par_active hv).1 ▸ hbench)]
        exact ⟨effect_tx_of_bench hbench hv, effect_ownViol hv⟩
    exact ⟨rfl, rfl, htx, hviol, hu⟩
  · exact nomatch (habsent s.teHalf s.tePos).symm.trans h

end Sys2Proof.Machine
end

section
/-! PROOF. The latency of the transfer engine beside the arbiter: where each received frame stands until it is sent, transformed, two halves later (43_transfer_interface.md R106, R108, R110; 41_arbiter.md R83, R88, R91). -/

namespace Sys2Proof

theorem Half.other_other (h : Half) : h.other.other = h := by cases h <;> rfl

end Sys2Proof

namespace Sys2Proof.Machine

/-! The frames received, in the two regions. -/

/-- A frame in memory holds `g` of the frame that was received `age` frames ago, if that many have been
received; `rx` are the frames received so far, the latest of them with age 1. -/
def HoldsReceived (rx : List Frame) (frame : Option Frame) (g : Frame → Frame) (age : Nat) : Prop :=
  ∀ k f, k + age = rx.length → rx[k]? = some f → frame = some (g f)

/-- One more frame received makes every frame one older. -/
theorem HoldsReceived.older {rx : List Frame} {frame frame' : Option Frame} {g : Frame → Frame}
    {age age' : Nat} (hold : HoldsReceived rx frame g age) (f : Frame) (hage : 0 < age)
    (hage' : age' = age + 1) (hframe : frame' = frame) : HoldsReceived (rx ++ [f]) frame' g age' := by
  intro k e hk he
  rw [List.length_append, List.length_singleton] at hk
  rw [List.getElem?_append_left (by omega)] at he
  exact hframe.trans (hold k e (by omega) he)

/-- The two regions, as `input` and `output`, and the frames `tx` sent, when the frames `rx` have been
received, the engine is at frame `pos` of `half`, and the arbiter has transformed the first `done` frames
of the other half. -/
structure Delayed (p : Params) (input output : Half → Nat → Option Frame) (tx rx : List Frame)
    (half : Half) (pos done : Nat) : Prop where
  count : tx.length = rx.length
  filling : ∀ i, i < pos → HoldsReceived rx (input half i) id (pos - i)
  filled : ∀ i, i < p.n → HoldsReceived rx (input half.other i) id (p.n + pos - i)
  transformed : ∀ i, i < p.n → i < done →
    HoldsReceived rx (output half.other i) (xform p) (p.n + pos - i)
  sending : ∀ i, i < p.n → pos ≤ i → HoldsReceived rx (output half i) (xform p) (2 * p.n + pos - i)
  sent : ∀ k f, rx[k]? = some f → k + 2 * p.n < tx.length → tx[k + 2 * p.n]? = some (xform p f)

section
variable {p : Params} {input output input' output' : Half → Nat → Option Frame}
  {tx rx : List Frame} {half : Half} {pos done : Nat}

/-- Before the first frame nothing is asked of the regions. -/
theorem delayed_nil : Delayed p input output [] [] half pos done where
  count := rfl
  filling _ _ _ _ _ := nofun
  filled _ _ _ _ _ := nofun
  transformed _ _ _ _ _ _ := nofun
  sending _ _ _ _ _ _ := nofun
  sent _ _ := nofun

/-- The engine writes the frame received at its position, and sends the one that stands there: the
transform of the frame received 2N frames ago. -/
theorem Delayed.receive (hd : Delayed p input output tx rx half pos done) (hpos : pos < p.n)
    {received sent : Frame} (here : input' half pos = some received)
    (hinput : ∀ h i, i < p.n → (h = half → i ≠ pos) → input' h i = input h i)
    (houtput : ∀ h i, i < p.n → output' h i = output h i)
    (hsent : ∀ g, output half pos = some g → sent = g) :
    Delayed p input' output' (tx ++ [sent]) (rx ++ [received]) half (pos + 1) done where
  count := by simp [hd.count]
  filling i hi := by
    rcases Nat.lt_succ_iff_lt_or_eq.1 hi with hlt | rfl
    · exact (hd.filling i hlt).older received (by omega) (by omega)
        (hinput half i (by omega) fun _ => hlt.ne)
    · intro k f hk hf
      obtain rfl : k = rx.length := by simpa using hk
      obtain rfl : received = f := by simpa using hf
      exact here
  filled i hi := (hd.filled i hi).older received (by omega) (by omega)
    (hinput half.other i hi fun hhalf => absurd rfl (Half.eq_other_iff.1 hhalf.symm))
  transformed i hi hdone := (hd.transformed i hi hdone).older received (by omega) (by omega)
    (houtput half.other i hi)
  sending i hi hle := (hd.sending i hi (by omega)).older received (by omega) (by omega)
    (houtput half i hi)
  sent k f hf hk := by
    simp only [List.length_append, List.length_singleton] at hk
    have hcount := hd.count
    have hn := p.n_pos
    rw [List.getElem?_append_left (by omega)] at hf
    rcases Nat.lt_succ_iff_lt_or_eq.1 hk with hlt | hlast
    · rw [List.getElem?_append_left hlt]
      exact hd.sent k f hf hlt
    · rw [hlast, List.getElem?_concat_length,
        hsent _ (hd.sending pos hpos le_rfl k f (by omega) hf)]

/-- The arbiter writes the transform of the next frame of the half it is at, which is not the engine's. -/
theorem Delayed.transform (hd : Delayed p input output tx rx half pos done) (hpos : pos < p.n)
    {f : Frame} (hf : ∀ g, input half.other done = some g → f = g)
    (here : output' half.other done = some (xform p f))
    (houtput : ∀ h i, i < p.n → (h = half.other → i ≠ done) → output' h i = output h i)
    (hinput : ∀ h i, i < p.n → input' h i = input h i) :
    Delayed p input' output' tx rx half pos (done + 1) where
  count := hd.count
  filling i hi := by rw [hinput _ i (hi.trans hpos)]; exact hd.filling i hi
  filled i hi := by rw [hinput _ i hi]; exact hd.filled i hi
  transformed i hi hdone := by
    rcases Nat.lt_succ_iff_lt_or_eq.1 hdone with hlt | rfl
    · rw [houtput _ i hi fun _ => hlt.ne]
      exact hd.transformed i hi hlt
    · intro k g hk hg
      rw [here, hf g (hd.filled i hi k g hk hg)]
  sending i hi hle := by
    rw [houtput half i hi fun hhalf => absurd rfl (Half.eq_other_iff.1 hhalf)]
    exact hd.sending i hi hle
  sent := hd.sent

/-- At the end of its half, with the other half transformed, the engine turns to that half. -/
theorem Delayed.turn (hd : Delayed p input output tx rx half p.n p.n) :
    Delayed p input output tx rx half.other 0 0 where
  count := hd.count
  filling i hi := absurd hi (Nat.not_lt_zero i)
  filled i hi := by
    rw [Half.other_other]
    exact hd.filling i hi
  transformed i _ hdone := absurd hdone (Nat.not_lt_zero i)
  sending i hi _ := by
    rw [two_mul]
    exact hd.transformed i hi hi
  sent := hd.sent

end

/-! The machine's two regions. -/

/-- How many frames of the half that the engine has left are transformed: all once the completion is
acknowledged, and those before IDX until then (41_arbiter.md R83, R86). -/
def transformedCount (s : State) : Nat := if s.cmplFlag then s.idx.toNat else s.par.n

/-- The regions hold the frames `rx` on their way, and the frames sent are those that were due. -/
def InTransit (s : State) (rx : List Frame) : Prop :=
  Delayed s.par (s.frameAt s.inBase) (s.frameAt s.outBase) s.tx rx s.teHalf s.tePos.toNat
    (transformedCount s)

/-- A step that moves neither frames nor the engine, and finishes no frame, leaves them. -/
theorem InTransit.congr {s t : State} {rx : List Frame} (hd : InTransit s rx) (hpar : t.par = s.par)
    (hmem : t.mem = s.mem) (hin : t.inBase = s.inBase) (hout : t.outBase = s.outBase)
    (htx : t.tx = s.tx) (hhalf : t.teHalf = s.teHalf) (hpos : t.tePos = s.tePos)
    (hcount : transformedCount t = transformedCount s) : InTransit t rx := by
  have hframe (base : Word) : t.frameAt base = s.frameAt base :=
    funext fun h => funext fun i => frameAt_congr hpar hmem base h i
  unfold InTransit
  rw [hframe, hframe, hpar, hin, hout, htx, hhalf, hpos, hcount]
  exact hd

theorem monitor_inTransit {s : State} {rx : List Frame} (hd : InTransit s rx) :
    InTransit (monitor s) rx := by
  refine hd.congr ?_ ?_ ?_ ?_ ?_ ?_ ?_ ?_ <;> simp [transformedCount]

/-- `t` has the memory of `s` after the arbiter has transformed frame `i` of half SEL, read as `f`. -/
structure TransformsFrame (s t : State) (i : Nat) (f : Frame) : Prop where
  here : t.frameAt s.outBase s.sel i = some (xform s.par f)
  output : ∀ h j, j < s.par.n → (h = s.sel → j ≠ i) →
    t.frameAt s.outBase h j = s.frameAt s.outBase h j
  input : ∀ h j, j < s.par.n → t.frameAt s.inBase h j = s.frameAt s.inBase h j

theorem transformsFrame_of_mem {s t : State} {i : Nat} {f : Frame} (hsession : SessionInv s)
    (hactive : s.active = true) (hi : i < s.par.n) (hpar : t.par = s.par)
    (hmem : t.mem = (writeFrame s.outBase s.sel i (xform s.par f) s).mem) :
    TransformsFrame s t i f := by
  obtain ⟨hfitIn, hfitOut⟩ := regions_fit_of_active hsession hactive
  have hframe := frameAt_congr (s := writeFrame s.outBase s.sel i (xform s.par f) s) hpar hmem
  exact {
    here := (hframe _ _ _).trans (writeFrame_frameAt_same _ (frame_fits hfitOut hi))
    output := fun h j hj hne => (hframe _ _ _).trans (writeFrame_frameAt_region hfitOut hi hj hne)
    input := fun h j hj => (hframe _ _ _).trans (writeFrame_frameAt_other (frame_fits hfitOut hi)
      (frame_fits hfitIn hj) (input_apart_output hsession hactive h s.sel hj hi)) }

/-- While a completion is pending and no event is lost, the half being processed is the one that the engine
has left (41_arbiter.md R91). -/
theorem sel_of_busy {s : State} (harb : ArbiterInv s) (hclean : CleanInv s)
    (hbench : s.par.bench = false) (hlost : s.evtLost = false) (hbusy : s.busy = true) :
    s.sel = s.teHalf.other := by
  have ⟨hpending, _⟩ := harb
  obtain ⟨-, hvalid⟩ := hpending hbusy
  obtain ⟨-, -, hfollows⟩ := hclean hbench hlost
  refine Half.eq_other_iff.2 fun hown => ?_
  obtain ⟨hidle, -⟩ := (hfollows hvalid).1 hown
  simp [hbusy] at hidle

/-- A step that writes the transform of the next frame of the half left takes `Delayed.transform`. -/
theorem InTransit.transform {s t : State} {rx : List Frame} {f : Frame} (hd : InTransit s rx)
    (hm : TransformsFrame s t (transformedCount s) f) (hpos : s.tePos.toNat < s.par.n)
    (hsel : s.sel = s.teHalf.other)
    (hf : ∀ g, s.frameAt s.inBase s.sel (transformedCount s) = some g → f = g)
    (hpar : t.par = s.par) (hin : t.inBase = s.inBase) (hout : t.outBase = s.outBase)
    (htx : t.tx = s.tx) (hhalf : t.teHalf = s.teHalf) (htePos : t.tePos = s.tePos)
    (hcount : transformedCount t = transformedCount s + 1) : InTransit t rx := by
  unfold InTransit at hd ⊢
  rw [hpar, hin, hout, htx, hhalf, htePos, hcount]
  exact hd.transform hpos (hsel ▸ hf) (hsel ▸ hm.here) (hsel ▸ hm.output) hm.input

/-- A TE_STEP takes `Delayed.receive`, whatever its advance makes of the new position. -/
theorem InTransit.receive {s t : State} {rx : List Frame} {f sent : Frame} (hd : InTransit s rx)
    (hm : ReceivesFrame s t f) (hpos : s.tePos.toNat < s.par.n)
    (hsent : ∀ g, s.frameAt s.outBase s.teHalf s.tePos.toNat = some g → sent = g)
    (hpar : t.par = s.par) (hin : t.inBase = s.inBase) (hout : t.outBase = s.outBase)
    (htx : t.tx = s.tx ++ [sent]) :
    Delayed t.par (t.frameAt t.inBase) (t.frameAt t.outBase) t.tx (rx ++ [f]) s.teHalf
      (s.tePos.toNat + 1) (transformedCount s) := by
  rw [hpar, hin, hout, htx]
  exact Delayed.receive hd hpos hm.here hm.input hm.output hsent

theorem idx_of_no_completion {s : State} (harb : ArbiterInv s) (hfree : s.cmplFlag = false) :
    s.idx = 0#16 := by
  have ⟨hpending, _, _, _, hidle⟩ := harb
  refine hidle (Bool.eq_false_iff.2 fun hbusy => ?_)
  simp [hpending hbusy] at hfree

/-- The advance goes on in the half, or, when no event is lost by it, turns to the other half, which the
arbiter has transformed. -/
theorem inTransit_advanceEngine {s : State} {rx : List Frame} (hpos : s.tePos.toNat < s.par.n)
    (hidle : s.cmplFlag = false → s.idx = 0#16)
    (hd : Delayed s.par (s.frameAt s.inBase) (s.frameAt s.outBase) s.tx rx s.teHalf
      (s.tePos.toNat + 1) (transformedCount s)) (hlost : (advanceEngine s).evtLost = false) :
    InTransit (advanceEngine s) rx := by
  have hframe (base : Word) : (advanceEngine s).frameAt base = s.frameAt base :=
    funext fun h => funext fun i => frameAt_congr (advanceEngine_par s) (advanceEngine_mem s) base h i
  unfold InTransit
  rw [hframe, hframe, advanceEngine_par, advanceEngine_inBase, advanceEngine_outBase, advanceEngine_tx]
  rcases advanceEngine_cases s with ⟨hlt, e⟩ | ⟨hend, e⟩ <;> rw [e] at hlost ⊢
  · have hnext := idx_toNat hlt.le
    simp only [transformedCount, hnext] at hd ⊢
    exact hd
  · have hlast : s.tePos.toNat + 1 = s.par.n := Nat.le_antisymm hpos (Nat.not_lt.1 hend)
    obtain ⟨-, hfree⟩ : s.evtLost = false ∧ s.cmplFlag = false := by simpa using hlost
    simp only [transformedCount, hfree, hlast, hidle hfree] at hd ⊢
    exact hd.turn

/-- What the frames in transit rest on, along a streaming run with the transfer engine. -/
structure Streams (p : Params) (s : State) (rx : List Frame) : Prop where
  par : s.par = p
  bench : s.par.bench = false
  active : s.active = true
  arbiter : ArbiterInv s
  session : SessionInv s
  engine : EngineInv s
  clean : CleanInv s
  inTransit : s.evtLost = false → InTransit s rx

/-- A TE_STEP whose completion is not lost sends the frame that is due, and turns to a half that is
transformed; ARB_XFRAME transforms one frame of the half that the engine has left; no other effect of a
streaming run with the engine moves a frame (43_transfer_interface.md R110). -/
theorem effect_inTransit {p : Params} {i : Instr} {s u : State} {rx : List Frame}
    (hs : Streams p s rx) (h : Effect i s u) (hlost : u.evtLost = false) :
    InTransit u (rx ++ received [i]) := by
  have hkept : s.evtLost = false :=
    Bool.eq_false_iff.2 fun hno => by simp [(effect_keepsSticky h).evtLost hno] at hlost
  have hd := hs.inTransit hkept
  have hstill : rx ++ [] = rx := List.append_nil rx
  have ⟨hpending, _, _, _, hidle⟩ := hs.arbiter
  have ⟨hpos, _⟩ := hs.engine
  cases h with
  | started _ _ hinactive => simp [hs.active] at hinactive
  | startFailed _ _ hinactive => simp [hs.active] at hinactive
  | stored _ hinactive => simp [hs.active] at hinactive
  | loaded hno =>
    obtain ⟨hbench, -⟩ := benchLoadRefusal_none hno
    simp [hs.bench] at hbench
  | raised hbench => simp [hs.bench] at hbench
  | idled | ignored => exact hstill.symm ▸ hd
  | readBack => exact hstill.symm ▸ hd.congr rfl rfl rfl rfl rfl rfl rfl rfl
  | sampled _ hfree hflag =>
    have hcount : transformedCount (enterArbiter s) = transformedCount s := by
      simp [transformedCount, hflag, hidle hfree]
    exact hstill.symm ▸ hd.congr rfl rfl rfl rfl rfl rfl rfl hcount
  | acked hbusy hidx =>
    have hcount : transformedCount (leaveArbiter s) = transformedCount s := by
      simp [transformedCount, (hpending hbusy).1, hidx]
    exact hstill.symm ▸ hd.congr rfl rfl rfl rfl rfl rfl rfl hcount
  | transformed f d hbusy hidx hlt hl hr =>
    subst hidx
    have hsel := sel_of_busy hs.arbiter hs.clean hs.bench hkept hbusy
    have hbefore : transformedCount s = s.idx.toNat := if_pos (hpending hbusy).1
    refine hstill.symm ▸ hd.transform (f := f) ?memory hpos hsel
      (hbefore ▸ fun g => eq_of_frameAt hl hr) rfl rfl rfl rfl rfl rfl ?count
    case memory => rw [hbefore]; exact transformsFrame_of_mem hs.session hs.active hlt rfl rfl
    case count => rw [hbefore]; exact (if_pos (hpending hbusy).1).trans (idx_toNat hlt)
  | @moved rxl rxr _ sent d _ _ hl hr =>
    have hsent : ∀ g, s.frameAt s.outBase s.teHalf s.tePos.toNat = some g → sent = g := fun g hg =>
      eq_of_frameAt hl hr
        ((writeFrame_input_frameAt_output hs.session hs.active ⟨rxl, rxr⟩ hpos hpos).trans hg)
    exact inTransit_advanceEngine hpos (idx_of_no_completion hs.arbiter) (hd.receive
      (receivesFrame_of_mem hs.session hs.active hpos rfl rfl) hpos hsent rfl rfl rfl rfl) hlost

/-! Runs. -/

/-- With the engine present a label that receives a frame is not refused. -/
theorem exec_next_of_engine {i : Instr} {s t : State} (hbench : s.par.bench = false)
    (h : exec i s = .next t) :
    (received [i] = [] ∧ ∃ reason, t = refuse reason s) ∨ ∃ u, Effect i s u ∧ t = monitor u := by
  cases i with
  | teStep rxl rxr =>
    rw [exec_teStep_of_engine hbench] at h
    obtain ⟨hactive, rfl⟩ := (guarded_eq_next_iff _ _ t).1 h
    obtain ⟨sent, d, hl, hr, e⟩ := moveFrame_spec ⟨rxl, rxr⟩ s
    exact .inr ⟨_, .moved sent d hbench hactive hl hr, by rw [e]⟩
  | _ => exact (exec_next h).imp_left fun href => ⟨rfl, href⟩

theorem exec_streams {p : Params} {i : Instr} {s t : State} {rx : List Frame} (hs : Streams p s rx)
    (h : exec i s = .next t) : Streams p t (rx ++ received [i]) := by
  rcases exec_next_of_engine hs.bench h with ⟨hnone, reason, rfl⟩ | ⟨u, hu, rfl⟩
  · rw [hnone, List.append_nil]
    exact {
      par := hs.par
      bench := hs.bench
      active := hs.active
      arbiter := hs.arbiter
      session := hs.session
      engine := hs.engine
      clean := hs.clean
      inTransit := fun hlost => (hs.inTransit hlost).congr rfl rfl rfl rfl rfl rfl rfl rfl }
  · obtain ⟨hpar, hactive⟩ := effect_par_active hu
    have harb := effect_arbiterInv hs.arbiter hu
    exact {
      par := by rw [monitor_par, hpar, hs.par]
      bench := by rw [monitor_par, hpar, hs.bench]
      active := by rw [monitor_active, hactive hs.active]
      arbiter := monitor_arbiterInv harb
      session := monitor_sessionInv (effect_sessionInv hs.session hu)
      engine := monitor_engineInv (effect_engineInv hs.engine hu)
      clean := monitor_cleanInv harb
        (effect_cleanInv hs.arbiter hs.session hs.engine hs.clean hu)
      inTransit := fun hlost =>
        monitor_inTransit (effect_inTransit hs hu (by rwa [monitor_evtLost] at hlost)) }

theorem execAll_streams {p : Params} {is : List Instr} {s t : State} {rx : List Frame}
    (hs : Streams p s rx) (h : execAll is s = .next t) : Streams p t (rx ++ received is) := by
  induction is generalizing s rx with
  | nil =>
    obtain rfl : s = t := Host.Outcome.next.inj h
    simpa [received] using hs
  | cons i is ih =>
    cases hi : exec i s with
    | next u =>
      rw [execAll_cons hi] at h
      have hsplit : received (i :: is) = received [i] ++ received is :=
        List.filterMap_append (l := [i])
      rw [hsplit, ← List.append_assoc]
      exact ih (exec_streams hs hi) h
    | fault e => simp [execAll, hi] at h
    | refused r => simp [execAll, hi] at h

/-- Settles O31: with nothing received, nothing is in transit; every label keeps the frames in transit, and
they say which frames have been sent. -/
theorem receivedFrameIsSentTwoHalvesLater : Obligations.ReceivedFrameIsSentTwoHalvesLater := by
  intro is s t hsafe hbench hactive _ _ _ htx h hlost k f hf hk
  obtain ⟨-, harb, hsession, hengine, -, hclean, -, -⟩ := hsafe
  have hstart : Streams s.par s [] :=
    { par := rfl
      bench := hbench
      active := hactive
      arbiter := harb
      session := hsession
      engine := hengine
      clean := hclean
      inTransit := fun _ => by unfold InTransit; rw [htx]; exact delayed_nil }
  have hend := execAll_streams hstart h
  have hsent := (hend.inTransit hlost).sent k f (by simpa using hf)
  rw [hend.par] at hsent
  exact hsent hk

end Sys2Proof.Machine
end

section
/-! PROOF. Which reason a refused label records: the conditions of 60_exceptions.md R116, one by one in the order of R117, refuse the label, and nothing else does. -/

namespace Sys2Proof.Machine

/-- The conditions under which a label is refused, each with its reason (60_exceptions.md R116); the
premises say that no earlier check of R117 has failed. -/
inductive RefusedFor : RefuseReason → Instr → State → Prop
  | wrongMode {i : Instr} {s : State} (hmode : (i.agent = .te ∧ s.par.bench = true)
      ∨ (i.agent = .bench ∧ s.par.bench = false)) : RefusedFor .mode i s
  | readUnmapped {widx : BitVec 8} {s : State} (hwidx : 11 ≤ widx.toNat) :
      RefusedFor .regUnmapped (.regRead widx) s
  | writeUnmapped {widx : BitVec 8} {data : Word} {s : State} (hwidx : 11 ≤ widx.toNat) :
      RefusedFor .regUnmapped (.regWrite widx data) s
  | writeLocked {widx : BitVec 8} {data : Word} {s : State}
      (hwidx : widx ∈ [2#8, 3#8, 5#8, 6#8, 7#8, 8#8, 9#8, 10#8])
      (hlock : s.active = true ∨ s.cfgErr = true) : RefusedFor .cfgLocked (.regWrite widx data) s
  | startLocked {data : Word} {s : State} (hbit : data.getLsbD 0 = true)
      (hlock : s.active = true ∨ s.cfgErr = true) : RefusedFor .startAgain (.regWrite 0#8 data) s
  | startPointer {data : Word} {s : State} (hbit : data.getLsbD 0 = true)
      (hactive : s.active = false) (herr : s.cfgErr = false) (hbench : s.par.bench = false)
      (hptr : s.par.ptrAlt = s.inBase) : RefusedFor .ptrAlt (.regWrite 0#8 data) s
  | raiseInactive {ptr : Word} {s : State} (hbench : s.par.bench = true)
      (hactive : s.active = false) : RefusedFor .notActive (.benchRaise ptr) s
  | loadOutside {buf : Buf} {kidx value : Word} {s : State} (hbench : s.par.bench = true)
      (hrange : 4 * s.par.n ≤ kidx.toNat ∨ 2 ^ 32 ≤ benchAddr (bufBase buf s) kidx) :
      RefusedFor .benchRange (.benchLoad buf kidx value) s
  | loadOwned {buf : Buf} {kidx value : Word} {s : State} (hbench : s.par.bench = true)
      (hk : kidx.toNat < 4 * s.par.n) (ha : benchAddr (bufBase buf s) kidx < 2 ^ 32)
      (hbusy : s.busy = true) (hhalf : kidx.toNat / (2 * s.par.n) = s.sel.index) :
      RefusedFor .benchOwned (.benchLoad buf kidx value) s

/-! Each condition refuses its label. -/

theorem exec_of_wrongMode {i : Instr} {s : State} (hmode : (i.agent = .te ∧ s.par.bench = true)
    ∨ (i.agent = .bench ∧ s.par.bench = false)) : exec i s = .next (refuse .mode s) := by
  cases i with
  | teStep rxl rxr =>
    have hbench : s.par.bench = true := by simpa [Instr.agent] using hmode
    exact exec_teStep_of_bench hbench rxl rxr
  | benchLoad buf kidx value =>
    have hbench : s.par.bench = false := by simpa [Instr.agent] using hmode
    exact exec_benchLoad_of_refused value (by simp [benchLoadRefusal, hbench])
  | benchRaise ptr =>
    have hbench : s.par.bench = false := by simpa [Instr.agent] using hmode
    simp [exec, execBenchRaise, benchRaiseRefusal, refusedStep, hbench]
  | _ => simp [Instr.agent] at hmode

theorem RefusedFor.exec_eq {reason : RefuseReason} {i : Instr} {s : State}
    (h : RefusedFor reason i s) : exec i s = .next (refuse reason s) := by
  cases h with
  | wrongMode hmode => exact exec_of_wrongMode hmode
  | readUnmapped hwidx => exact exec_regRead_of_unmapped (regOperand_none hwidx) s
  | writeUnmapped hwidx => exact exec_regWrite_of_unmapped (regOperand_none hwidx) _ s
  | writeLocked hwidx hlock => exact exec_regWrite_of_locked hlock _ hwidx
  | startLocked hbit hlock =>
    rw [exec_regWrite_ctrl_start hbit, start_of_locked hlock]
    rfl
  | startPointer hbit hactive herr hbench hptr =>
    rw [exec_regWrite_ctrl_start hbit, start_of_ptrAlt hactive herr hbench hptr]
    rfl
  | raiseInactive hbench hactive =>
    simp [exec, execBenchRaise, benchRaiseRefusal, refusedStep, hbench, hactive]
  | loadOutside hbench hrange =>
    refine exec_benchLoad_of_refused _ ?_
    rw [benchLoadRefusal, if_neg (by simp [hbench])]
    split
    · rfl
    · next hk => exact if_pos (hrange.resolve_left hk)
  | loadOwned hbench hk ha hbusy hhalf =>
    refine exec_benchLoad_of_refused _ ?_
    rw [benchLoadRefusal, if_neg (by simp [hbench]), if_neg (Nat.not_le.2 hk),
      if_neg (Nat.not_le.2 ha), if_pos (by simp [hbusy, halfOfSample, hhalf])]

/-! Nothing else is refused. -/

/-- A WIDX that names no register is past the last mapped word (10_state.md R28). -/
theorem regOperand_eq_none {widx : BitVec 8} : regOperand widx = none → 11 ≤ widx.toNat := by
  revert widx
  decide

/-- The LOCKED-RW registers stand at these offsets alone (10_state.md R28). -/
theorem mem_of_regOperand_lockedRw {widx : BitVec 8} :
    (regOperand widx).any Reg.lockedRw = true →
      widx ∈ [2#8, 3#8, 5#8, 6#8, 7#8, 8#8, 9#8, 10#8] := by
  revert widx
  decide

/-- Everything START can be refused for (42_session.md R97). -/
theorem refusedFor_of_start {reason : RefuseReason} {data : Word} {s : State}
    (hbit : data.getLsbD 0 = true) (h : start s = .error reason) :
    RefusedFor reason (.regWrite 0#8 data) s := by
  by_cases hlock : s.active = true ∨ s.cfgErr = true
  · rw [start_of_locked hlock] at h
    cases h
    exact .startLocked hbit hlock
  obtain ⟨hactive, herr⟩ : s.active = false ∧ s.cfgErr = false := by simpa using hlock
  by_cases hptr : s.par.bench = false → s.par.ptrAlt ≠ s.inBase
  · rw [start_of_accepted hactive herr hptr] at h
    cases h
  · obtain ⟨hbench, hsame⟩ : s.par.bench = false ∧ s.par.ptrAlt = s.inBase := by simpa using hptr
    rw [start_of_ptrAlt hactive herr hbench hsame] at h
    cases h
    exact .startPointer hbit hactive herr hbench hsame

/-- Everything a write to a mapped register can be refused for (42_session.md R95). -/
theorem refusedFor_of_writeReg {reason : RefuseReason} {widx : BitVec 8} {reg : Reg} {data : Word}
    {s : State} (hreg : regOperand widx = some reg) (h : writeReg reg data s = .error reason) :
    RefusedFor reason (.regWrite widx data) s := by
  cases hclass : reg.lockedRw with
  | true =>
    rw [writeReg_of_lockedRw hclass, writeLocked] at h
    split at h
    · next hlock =>
      cases h
      exact .writeLocked (mem_of_regOperand_lockedRw (by simpa [hreg] using hclass))
        (by simpa using hlock)
    · cases h
  | false =>
    cases reg with
    | ctrl =>
      rw [writeReg] at h
      split at h
      · next hbit => exact regOperand_eq_ctrl hreg ▸ refusedFor_of_start hbit h
      · cases h
    | status | frames => cases h
    | _ => cases hclass

/-- Everything a BENCH_LOAD can be refused for (43_transfer_interface.md R114). -/
theorem refusedFor_of_benchLoadRefusal {reason : RefuseReason} {buf : Buf} {kidx : Word} {s : State}
    (value : Word) (h : benchLoadRefusal buf kidx s = some reason) :
    RefusedFor reason (.benchLoad buf kidx value) s := by
  cases hbench : s.par.bench with
  | false =>
    obtain rfl : RefuseReason.mode = reason := by simpa [benchLoadRefusal, hbench] using h
    exact .wrongMode (.inr ⟨rfl, hbench⟩)
  | true =>
    rw [benchLoadRefusal, if_neg (by simp [hbench])] at h
    split at h
    · next hk =>
      cases h
      exact .loadOutside hbench (.inl hk)
    · next hk =>
      split at h
      · next ha =>
        cases h
        exact .loadOutside hbench (.inr ha)
      · next ha =>
        split at h
        · next howned =>
          cases h
          obtain ⟨hbusy, hhalf⟩ : s.busy = true ∧ halfOfSample s.par kidx = s.sel.index := by
            simpa using howned
          exact .loadOwned hbench (Nat.not_le.1 hk) (Nat.not_le.1 ha) hbusy hhalf
        · cases h

/-- Everything a BENCH_RAISE can be refused for (43_transfer_interface.md R113). -/
theorem refusedFor_of_benchRaiseRefusal {reason : RefuseReason} {s : State} (ptr : Word)
    (h : benchRaiseRefusal s = some reason) : RefusedFor reason (.benchRaise ptr) s := by
  cases hbench : s.par.bench with
  | false =>
    obtain rfl : RefuseReason.mode = reason := by simpa [benchRaiseRefusal, hbench] using h
    exact .wrongMode (.inr ⟨rfl, hbench⟩)
  | true =>
    rw [benchRaiseRefusal, if_neg (by simp [hbench])] at h
    split at h
    · next hactive =>
      cases h
      exact .raiseInactive hbench (by simpa using hactive)
    · cases h

/-- A register write that is not refused records no reason. -/
theorem writeReg_refuseReason {reg : Reg} {data : Word} {s u : State}
    (h : writeReg reg data s = .ok u) : u.refuseReason = s.refuseReason := by
  obtain rfl | ⟨-, -, rfl⟩ | ⟨-, -, hstart⟩ := writeReg_ok h
  · rfl
  · obtain ⟨_, _, _, _, _, _, _, _, e⟩ := storeReg_frame reg data s
    rw [e]
  · obtain ⟨-, -, -, ⟨-, rfl⟩ | ⟨-, rfl⟩⟩ := start_ok hstart
    · obtain ⟨_, _, _, e⟩ := startStreaming_frame s
      rw [e]
    · rfl

theorem transformFrame_refuseReason (i : Nat) (s : State) :
    (transformFrame i s).refuseReason = s.refuseReason := by
  obtain ⟨_, _, -, -, e⟩ := transformFrame_spec i s
  rw [e]

theorem moveFrame_refuseReason (f : Frame) (s : State) :
    (moveFrame f s).refuseReason = s.refuseReason := by
  obtain ⟨_, _, -, -, e⟩ := moveFrame_spec f s
  obtain ⟨_, _, _, _, _, e'⟩ := advanceEngine_frame _
  rw [e, e']

/-- A label that runs meets one of the conditions, or leaves the recorded reason as it was. -/
theorem refusedFor_or_refuseReason_kept {i : Instr} {s t : State} (h : exec i s = .next t) :
    (∃ reason, RefusedFor reason i s) ∨ t.refuseReason = s.refuseReason := by
  cases i with
  | hostIdle =>
    cases h
    exact .inr (monitor_refuseReason s)
  | regRead widx =>
    cases hreg : regOperand widx with
    | none => exact .inl ⟨_, .readUnmapped (regOperand_eq_none hreg)⟩
    | some reg =>
      rw [exec_regRead_of_mapped hreg] at h
      cases h
      exact .inr (monitor_refuseReason _)
  | regWrite widx data =>
    cases hreg : regOperand widx with
    | none => exact .inl ⟨_, .writeUnmapped (regOperand_eq_none hreg)⟩
    | some reg =>
      rw [exec_regWrite_of_mapped hreg] at h
      rcases requestOutcome_next h with ⟨u, hok, rfl⟩ | ⟨reason, herror, -⟩
      · exact .inr (by rw [monitor_refuseReason, writeReg_refuseReason hok])
      · exact .inl ⟨reason, refusedFor_of_writeReg hreg herror⟩
  | arbSample =>
    obtain ⟨-, rfl⟩ := (exec_arbSample_eq_next_iff s t).1 h
    exact .inr (by simp)
  | arbXframe fidx =>
    obtain ⟨-, rfl⟩ := (exec_arbXframe_eq_next_iff fidx s t).1 h
    exact .inr (by rw [monitor_refuseReason, transformFrame_refuseReason])
  | arbAck =>
    obtain ⟨-, rfl⟩ := (exec_arbAck_eq_next_iff s t).1 h
    exact .inr (by simp)
  | teStep rxl rxr =>
    cases hbench : s.par.bench with
    | true => exact .inl ⟨_, .wrongMode (.inl ⟨rfl, hbench⟩)⟩
    | false =>
      rw [exec_teStep_of_engine hbench] at h
      obtain ⟨-, rfl⟩ := (guarded_eq_next_iff _ _ t).1 h
      exact .inr (by rw [monitor_refuseReason, moveFrame_refuseReason])
  | benchLoad buf kidx value =>
    cases href : benchLoadRefusal buf kidx s with
    | some reason => exact .inl ⟨reason, refusedFor_of_benchLoadRefusal value href⟩
    | none =>
      rw [exec_benchLoad_of_accepted value href] at h
      cases h
      exact .inr rfl
  | benchRaise ptr =>
    cases href : benchRaiseRefusal s with
    | some reason => exact .inl ⟨reason, refusedFor_of_benchRaiseRefusal ptr href⟩
    | none =>
      simp only [exec, execBenchRaise, href, taken, Host.Outcome.next.injEq] at h
      exact .inr (by simp [← h])

/-! The reason recorded. -/

/-- The reason of a first refusal is the one whose condition holds; no two hold together, because each
determines the next state. -/
theorem refuseReason_eq_some_iff {i : Instr} {s t : State} (hfirst : s.refuseReason = none)
    (h : exec i s = .next t) (reason : RefuseReason) :
    t.refuseReason = some reason ↔ RefusedFor reason i s := by
  have recorded : ∀ r, RefusedFor r i s → t.refuseReason = some r := fun r hr => by
    obtain rfl : t = refuse r s := Host.Outcome.next.inj (h.symm.trans hr.exec_eq)
    simp [refuse_refuseReason, hfirst]
  refine ⟨fun hreason => ?_, recorded reason⟩
  rcases refusedFor_or_refuseReason_kept h with ⟨r, hr⟩ | hkept
  · obtain rfl : r = reason := Option.some.inj ((recorded r hr).symm.trans hreason)
    exact hr
  · simp [hkept, hfirst] at hreason

/-- Settles O37: the reason recorded is the one whose condition holds, and each clause states the
conditions of one reason; none has RF_ILLEGAL_LABEL. -/
theorem firstRefusalRecordsItsReason : Obligations.FirstRefusalRecordsItsReason := by
  intro i s t hfirst h
  simp only [ne_eq, refuseReason_eq_some_iff hfirst h]
  refine ⟨?mode, ?regUnmapped, ?cfgLocked, ?startAgain, ?ptrAlt, ?notActive, ?benchRange,
    ?benchOwned, ?illegalLabel⟩
  case mode => exact ⟨fun | .wrongMode hmode => hmode, .wrongMode⟩
  case regUnmapped =>
    constructor
    · exact fun
        | .readUnmapped hwidx => ⟨_, hwidx, .inl rfl⟩
        | .writeUnmapped hwidx => ⟨_, hwidx, .inr ⟨_, rfl⟩⟩
    · rintro ⟨widx, hwidx, rfl | ⟨data, rfl⟩⟩
      · exact .readUnmapped hwidx
      · exact .writeUnmapped hwidx
  case cfgLocked =>
    exact ⟨fun | .writeLocked hwidx hlock => ⟨_, _, rfl, hwidx, hlock⟩,
      fun ⟨_, _, hi, hwidx, hlock⟩ => hi ▸ .writeLocked hwidx hlock⟩
  case startAgain =>
    exact ⟨fun | .startLocked hbit hlock => ⟨_, rfl, hbit, hlock⟩,
      fun ⟨_, hi, hbit, hlock⟩ => hi ▸ .startLocked hbit hlock⟩
  case ptrAlt =>
    exact ⟨fun | .startPointer hbit hactive herr hbench hptr =>
                  ⟨_, rfl, hbit, hactive, herr, hbench, hptr⟩,
      fun ⟨_, hi, hbit, hactive, herr, hbench, hptr⟩ =>
        hi ▸ .startPointer hbit hactive herr hbench hptr⟩
  case notActive =>
    exact ⟨fun | .raiseInactive hbench hactive => ⟨_, rfl, hbench, hactive⟩,
      fun ⟨_, hi, hbench, hactive⟩ => hi ▸ .raiseInactive hbench hactive⟩
  case benchRange =>
    exact ⟨fun | .loadOutside hbench hrange => ⟨_, _, _, rfl, hbench, hrange⟩,
      fun ⟨_, _, _, hi, hbench, hrange⟩ => hi ▸ .loadOutside hbench hrange⟩
  case benchOwned =>
    exact ⟨fun | .loadOwned hbench hk ha hbusy hhalf =>
                  ⟨_, _, _, rfl, hbench, hk, ha, hbusy, hhalf⟩,
      fun ⟨_, _, _, hi, hbench, hk, ha, hbusy, hhalf⟩ =>
        hi ▸ .loadOwned hbench hk ha hbusy hhalf⟩
  case illegalLabel => exact nofun

end Sys2Proof.Machine
end

section
/-! PROOF. Which steps exist: after reset, in every state, and after a HOST step; and that every other label has a next state (00_scope.md R13; 20_memory.md R49; 70_reset_and_hazards.md R132, R141–R143). -/

namespace Sys2Proof

/-- Where there is a word, there is a label, an invalid header or a truncated label. -/
theorem decode_eq_empty {ws : List Word} (hd : decode ws = .empty) : ws = [] := by
  cases ws with
  | nil => rfl
  | cons h rest =>
    cases hh : decodeHeader h with
    | error why => simp [decode, hh] at hd
    | ok head =>
      simp only [decode, hh] at hd
      obtain ⟨_, _, e, -, -⟩ | e := takePayload_cases head rest <;> simp [e] at hd

end Sys2Proof

namespace Sys2Proof.Machine

/-! Which labels have a next state. -/

/-- The conditions of the steps read only these five. -/
theorem stepExists_congr {s t : State} (hpar : t.par = s.par) (hactive : t.active = s.active)
    (hbusy : t.busy = s.busy) (hidx : t.idx = s.idx) (hflag : t.cmplFlag = s.cmplFlag) (j : Instr) :
    stepExists j t = stepExists j s := by
  cases j with
  | hostIdle | regRead | regWrite | benchLoad | benchRaise => rfl
  | arbSample => simp only [stepExists, sampleEnabled, hactive, hbusy, hflag]
  | arbXframe fidx => simp only [stepExists, xframeEnabled, hbusy, hidx, hpar]
  | arbAck => simp only [stepExists, ackEnabled, hbusy, hidx, hpar]
  | teStep rxl rxr => simp only [stepExists, teEnabled, hpar, hactive]

theorem requestOutcome_exists_next (s : State) (e : Except RefuseReason State) :
    ∃ t, requestOutcome s e = .next t := by
  cases e with
  | ok u => exact ⟨monitor u, rfl⟩
  | error reason => exact ⟨refuse reason s, rfl⟩

/-- A guarded step has a next state under its condition. -/
theorem guarded_exists_next {c : Prop} [Decidable c] (hc : c) (u : State) :
    ∃ t, (if c then taken u else .refused .notEnabled) = .next t :=
  ⟨monitor u, (guarded_eq_next_iff c u _).2 ⟨hc, rfl⟩⟩

/-- A HOST or BENCH label is a request, taken or refused; an ARB or TE label is taken under its condition,
and a TE label in the wrong mode is refused. -/
theorem exec_exists_next {i : Instr} {s : State} (hexists : stepExists i s = true) :
    ∃ t, exec i s = .next t := by
  cases i with
  | hostIdle => exact ⟨monitor s, rfl⟩
  | regRead widx =>
    cases hreg : regOperand widx with
    | none => exact ⟨_, exec_regRead_of_unmapped hreg s⟩
    | some reg => exact ⟨_, exec_regRead_of_mapped hreg s⟩
  | regWrite widx data =>
    cases hreg : regOperand widx with
    | none => exact ⟨_, exec_regWrite_of_unmapped hreg data s⟩
    | some reg =>
      rw [exec_regWrite_of_mapped hreg]
      exact requestOutcome_exists_next s _
  | arbSample => exact guarded_exists_next hexists _
  | arbXframe fidx => exact guarded_exists_next hexists _
  | arbAck => exact guarded_exists_next hexists _
  | teStep rxl rxr =>
    cases hbench : s.par.bench with
    | true => exact ⟨_, exec_teStep_of_bench hbench rxl rxr⟩
    | false =>
      rw [exec_teStep_of_engine hbench]
      exact guarded_exists_next (by simpa [stepExists, hbench] using hexists) _
  | benchLoad buf kidx value =>
    cases hrefusal : benchLoadRefusal buf kidx s with
    | none => exact ⟨_, exec_benchLoad_of_accepted value hrefusal⟩
    | some reason => exact ⟨_, exec_benchLoad_of_refused value hrefusal⟩
  | benchRaise ptr =>
    simp only [exec, execBenchRaise]
    split
    · exact ⟨refuse _ s, rfl⟩
    · exact ⟨monitor (raiseCompletion ptr s), rfl⟩

/-- Only ARB and TE labels have a condition. -/
theorem exec_of_not_exists {i : Instr} {s : State} (hno : stepExists i s = false) :
    exec i s = .refused .notEnabled ∧ (i.agent = .arb ∨ i.agent = .te) := by
  have hguard : ¬ stepExists i s = true := Bool.eq_false_iff.1 hno
  cases i with
  | hostIdle | regRead | regWrite | benchLoad | benchRaise => cases hno
  | arbSample => exact ⟨(exec_arbSample_eq_notEnabled_iff s).2 hguard, .inl rfl⟩
  | arbXframe fidx => exact ⟨(exec_arbXframe_eq_notEnabled_iff fidx s).2 hguard, .inl rfl⟩
  | arbAck => exact ⟨(exec_arbAck_eq_notEnabled_iff s).2 hguard, .inl rfl⟩
  | teStep rxl rxr =>
    exact ⟨(exec_teStep_eq_notEnabled_iff rxl rxr s).2 (Bool.or_eq_false_iff.1 hno), .inr rfl⟩

/-- Settles O55: a label has a next state exactly when its step exists, and `step` runs the label at the
front of the schedule, refuses an invalid header, or finds no whole label. -/
theorem everyStepIsTotal : Obligations.EveryStepIsTotal := by
  refine ⟨fun _ _ => exec_exists_next, fun _ _ => exec_of_not_exists, fun s => ?_⟩
  cases hd : decode s.labels with
  | label i rest =>
    have hstep : step s = exec i (takeLabels rest s) := by simp only [step, hd]
    have hsame : stepExists i (takeLabels rest s) = stepExists i s :=
      stepExists_congr rfl rfl rfl rfl rfl i
    rw [hstep]
    cases hexists : stepExists i s with
    | true => exact .inl (exec_exists_next (hsame.trans hexists))
    | false =>
      exact .inr (.inr (.inr ⟨i, rest, rfl, hexists, (exec_of_not_exists (hsame.trans hexists)).1⟩))
  | invalid why rest =>
    exact .inl ⟨refuse .illegalLabel (takeLabels rest s), by simp only [step, hd, refusedStep]⟩
  | truncated => exact .inr (.inr (.inl ⟨rfl, by simp only [step, hd]⟩))
  | empty =>
    exact .inr (.inl ⟨decode_eq_empty hd, by simp only [step, hd]⟩)

/-- Settles O2: with ACTIVE and BUSY 0 no condition of an autonomous step holds, a raise wants a session,
and on the reset state the monitor has been evaluated. -/
theorem resetEnablesNoArbiterOrEngineStep : Obligations.ResetEnablesNoArbiterOrEngineStep := by
  intro p ls fidx rxl rxr ptr
  refine ⟨?sample, ?xframe, ?ack, fun hbench => ?te, fun hbench => ?raise, ?idle⟩
  case sample => exact (exec_of_not_exists rfl).1
  case xframe => exact (exec_of_not_exists rfl).1
  case ack => exact (exec_of_not_exists rfl).1
  case te => exact (exec_teStep_eq_notEnabled_iff rxl rxr _).2 ⟨hbench, rfl⟩
  case raise =>
    obtain ⟨-, hraise⟩ := benchRaisePresentsThePointer
    obtain ⟨-, hinactive, -⟩ := hraise { State.resetFor p with labels := ls } ptr
    exact hinactive hbench rfl
  case idle => rfl

/-- Settles O57: HOST_IDLE and, while streaming with the engine, TE_STEP exist; ACTIVE is never cleared. -/
theorem noRunEnds : Obligations.NoRunEnds := by
  refine ⟨fun s => exec_exists_next rfl, fun s hactive =>
    ⟨fun t h => (step_keepsSticky h).active hactive, fun _ rxl rxr => ?engine⟩⟩
  case engine =>
    obtain ⟨t, h⟩ := exec_exists_next (i := .teStep rxl rxr) (s := s)
      (by simp [stepExists, teEnabled, hactive])
    exact ⟨t, h, (exec_keepsSticky h).active hactive⟩

/-! What moves the conditions. -/

theorem exec_par {i : Instr} {s t : State} (h : exec i s = .next t) : t.par = s.par := by
  obtain ⟨reason, rfl⟩ | ⟨u, hu, rfl⟩ := exec_next h
  · rfl
  · exact (monitor_par u).trans (effect_par_active hu).1

/-- The arbiter's place, BUSY and IDX, is moved by ARB steps alone (10_state.md R20, R23). -/
theorem exec_place_of_not_arb {i : Instr} {s t : State} (hi : i.agent ≠ .arb)
    (h : exec i s = .next t) : t.busy = s.busy ∧ t.idx = s.idx := by
  obtain ⟨-, hbusy, -, hidx, -⟩ := registersHaveTheirWriters i s t h
  refine ⟨by_contra fun hne => hi ?_, by_contra fun hne => hi (hidx hne)⟩
  rcases hbusy hne with rfl | rfl <;> rfl

theorem IsCompletion.agent {i : Instr} {s : State} (h : IsCompletion i s) :
    i.agent = .te ∨ i.agent = .bench := by
  obtain ⟨l, r, rfl, -⟩ | ⟨p, rfl⟩ := h
  · exact .inl rfl
  · exact .inr rfl

/-- Once ACTIVE = 1 there is no START, so only ARB_ACK clears CMPL_FLAG, and only a completion sets it
(10_state.md R24). -/
theorem exec_cmplFlag_of_ne_ack {i : Instr} {s t : State} (hi : i ≠ .arbAck)
    (hactive : s.active = true) (h : exec i s = .next t) :
    (IsCompletion i s ∧ t.cmplFlag = true) ∨ t.cmplFlag = s.cmplFlag := by
  obtain ⟨reason, rfl⟩ | ⟨u, hu, rfl⟩ := exec_next h
  · exact .inr rfl
  · rw [monitor_cmplFlag]
    obtain ⟨hc, hset, -⟩ | ⟨hack, -⟩ | ⟨hinactive, -⟩ | ⟨hsame, -⟩ := effect_cmplFlag_cases hu
    · exact .inl ⟨hc, hset⟩
    · exact absurd hack hi
    · simp [hactive] at hinactive
    · exact .inr hsame

/-- Settles O58: of what the conditions read, a HOST step moves only ACTIVE and CMPL_FLAG, by START, which
comes before the session. -/
theorem hostStepsMoveNoEnabling : Obligations.HostStepsMoveNoEnabling := by
  intro i j s t hi hactive h
  obtain ⟨hbusy, hidx⟩ := exec_place_of_not_arb (by simp [hi]) h
  have hflag : t.cmplFlag = s.cmplFlag := by
    have hne : i ≠ .arbAck := by rintro rfl; cases hi
    refine (exec_cmplFlag_of_ne_ack hne hactive h).resolve_left fun ⟨hc, _⟩ => ?_
    simpa [hi] using hc.agent
  exact stepExists_congr (exec_par h) (((exec_keepsSticky h).active hactive).trans hactive.symm)
    hbusy hidx hflag j

end Sys2Proof.Machine
end

section
/-! PROOF. The configuration registers before START, as they read back, and after it, as they stay (42_session.md R94, R95; 70_reset_and_hazards.md R135, R139). -/

namespace Sys2Proof.Machine

/-- A field that starts at bit 0 reads back as the bits of DATA under its mask. -/
theorem setWidth_setWidth_of_mask {n : Nat} {mask : Word} (data : Word)
    (hmask : mask = (BitVec.allOnes n).setWidth 32) :
    ((data &&& mask).setWidth n).setWidth 32 = data &&& mask := by
  subst hmask
  ext i hi
  by_cases hin : i < n <;> simp [hin, hi, BitVec.getLsbD_eq_getElem]

/-- A LOCKED-RW register reads back what is stored, its reserved bits 0 (42_session.md R94, R95). -/
theorem readReg_storeReg {reg : Reg} (hclass : reg.lockedRw = true) (data : Word) (s : State) :
    readReg reg (storeReg reg data s) = data &&& wmask reg := by
  cases reg with
  | ctrl | status | frames => cases hclass
  | inCh => exact setWidth_setWidth_of_mask data (by decide)
  | sclkOutEn => exact setWidth_setWidth_of_mask data (by decide)
  | inBase | outBase | sampleRate | bitDepth | clkMult | pins => rfl

/-- OWN_VIOL, which the monitor writes, is no register's. -/
theorem readReg_monitor (reg : Reg) (s : State) : readReg reg (monitor s) = readReg reg s := by
  cases reg <;> simp [readReg, statusWord]

/-- The masks of the LOCKED-RW registers by their offsets (10_state.md R28; 42_session.md R95). -/
theorem wmask_of_lockedRw :
    ∀ widx ∈ [2#8, 3#8, 5#8, 6#8, 7#8, 8#8, 9#8, 10#8],
      (regOperand widx).map wmask = some (if widx = 5#8 then 0x0000000F#32
        else if widx = 10#8 then 0x00000001#32 else 0xFFFFFFFF#32) := by
  decide

/-- Settles O14: the write stores DATA under the mask, and the read appends the register as it stands. -/
theorem configurationWriteIsReadBack : Obligations.ConfigurationWriteIsReadBack := by
  intro s t data widx hactive herr hwidx h
  obtain ⟨reg, hreg, hclass⟩ := (Option.any_eq_true _ _).1 (regOperand_lockedRw widx hwidx)
  have hmask := wmask_of_lockedRw widx hwidx
  rw [hreg, Option.map_some, Option.some.injEq] at hmask
  rw [exec_regWrite_of_unlocked hreg hclass hactive herr] at h
  obtain rfl := Host.Outcome.next.inj h
  have hrd : (storeReg reg data s).rd = s.rd := by
    obtain ⟨_, _, _, _, _, _, _, _, e⟩ := storeReg_frame reg data s
    rw [e]
  refine ⟨_, exec_regRead_of_mapped hreg _, ?_⟩
  simp only [monitor_rd, readReg_monitor, readReg_storeReg hclass, hrd, hmask]

theorem step_par {s t : State} (h : step s = .next t) : t.par = s.par :=
  step_gives (P := fun u => u.par = s.par) (Q := fun u => u.par = s.par) (fun _ _ hs => hs) (fun _ _ hs => hs)
    (fun hs hu => (monitor_par _).trans ((effect_par_active hu).1.trans hs)) rfl h

theorem step_portCfg {s t : State} (hlock : s.active = true ∨ s.cfgErr = true)
    (h : step s = .next t) : portCfg t = portCfg s := by
  rcases step_next h with ⟨i, rest, -, hx⟩ | ⟨_, rest, -, rfl⟩
  · rcases exec_portCfg hx with hsame | ⟨-, hactive, herr⟩
    · exact hsame
    · simp [show s.active = false from hactive, show s.cfgErr = false from herr] at hlock
  · rfl

/-- Settles O45: no effect writes a parameter, and a register store, the one effect that writes a
configuration register, comes before START. -/
theorem configurationIsFixedAfterStart : Obligations.ConfigurationIsFixedAfterStart :=
  fun _ _ h => ⟨step_par h, fun hlock => step_portCfg hlock h⟩

end Sys2Proof.Machine
end

section
/-! PROOF. What every state of a run from reset satisfies, in both forms of a run (10_state.md R37; 70_reset_and_hazards.md R141). -/

namespace Sys2Proof.Machine

/-- What holds of every state that a run with parameters `p` reaches. -/
structure RunInv (p : Params) (s : State) : Prop where
  par : s.par = p
  arbiter : ArbiterInv s
  session : SessionInv s
  engine : EngineInv s
  clean : CleanInv s

theorem resetFor_runInv (p : Params) (ls : List Word) :
    RunInv p { State.resetFor p with labels := ls } := by
  obtain ⟨-, harb, hsession, hengine, -, hclean, -⟩ := safetyInvariantHoldsAtReset p ls
  exact ⟨rfl, harb, hsession, hengine, hclean⟩

theorem refuse_runInv {p : Params} {s : State} (reason : RefuseReason) (hs : RunInv p s) :
    RunInv p (refuse reason s) :=
  ⟨hs.par, hs.arbiter, hs.session, hs.engine, hs.clean⟩

theorem takeLabels_runInv {p : Params} {s : State} (rest : List Word) (hs : RunInv p s) :
    RunInv p (takeLabels rest s) :=
  ⟨hs.par, hs.arbiter, hs.session, hs.engine, hs.clean⟩

theorem exec_keeps_runInv {p : Params} {i : Instr} {s t : State} (hs : RunInv p s)
    (h : exec i s = .next t) : RunInv p t := by
  have hpar := (exec_par h).trans hs.par
  obtain ⟨reason, rfl⟩ | ⟨u, hu, rfl⟩ := exec_next h
  · exact refuse_runInv reason hs
  · have harb := effect_arbiterInv hs.arbiter hu
    exact {
      par := hpar
      arbiter := monitor_arbiterInv harb
      session := monitor_sessionInv (effect_sessionInv hs.session hu)
      engine := monitor_engineInv (effect_engineInv hs.engine hu)
      clean := monitor_cleanInv harb
        (effect_cleanInv hs.arbiter hs.session hs.engine hs.clean hu) }

theorem step_keeps_runInv {p : Params} {s t : State} (hs : RunInv p s) (h : step s = .next t) :
    RunInv p t := by
  obtain ⟨i, rest, -, hx⟩ | ⟨_, rest, -, rfl⟩ := step_next h
  · exact exec_keeps_runInv (takeLabels_runInv rest hs) hx
  · exact refuse_runInv _ (takeLabels_runInv rest hs)

/-- Everything a request can do with a next state: its label runs, or an invalid header is refused. -/
theorem takeStep_next {r : Request} {s t : State} (h : takeStep r s = .next t) :
    (∃ i, r = .label i ∧ exec i s = .next t) ∨ t = refuse .illegalLabel s := by
  cases r with
  | label i => exact .inl ⟨i, rfl, h⟩
  | illegal => exact .inr (Host.Outcome.next.inj h).symm

theorem takeStep_keeps_runInv {p : Params} {r : Request} {s t : State} (hs : RunInv p s)
    (h : takeStep r s = .next t) : RunInv p t := by
  obtain ⟨i, -, hx⟩ | rfl := takeStep_next h
  · exact exec_keeps_runInv hs hx
  · exact refuse_runInv _ hs

/-- What every step keeps holds at the end of every finite run. -/
theorem run_keeps {M : Host.Core} {P : M.State → Prop}
    (hstep : ∀ {s t}, P s → M.step s = .next t → P t) {k : Nat} {s t : M.State} (hs : P s)
    (h : M.run k s = .next t) : P t := by
  induction k generalizing s with
  | zero => exact Host.Outcome.next.inj h ▸ hs
  | succ k ih =>
    rw [Host.Core.run] at h
    split at h
    · next u hu => exact ih (hstep hs hu) h
    · cases h
    · cases h

/-- Settles O54: the clean invariant at the end of the run, and the arbiter's for BUSY and CMPL_FLAG. -/
theorem deadlineMetRunsAreClean : Obligations.DeadlineMetRunsAreClean := by
  intro p ls k t h
  have ht := run_keeps (M := Sys2Proof.core) step_keeps_runInv (resetFor_runInv p ls) h
  refine ⟨fun hbench ⟨_, hlost⟩ => ?clean, fun hbusy => ?pending⟩
  case clean =>
    obtain ⟨hviol, halt, -⟩ := ht.clean (by rw [ht.par, hbench]) hlost
    exact ⟨hviol, halt⟩
  case pending =>
    obtain ⟨hpending, -⟩ := ht.arbiter
    exact (hpending hbusy).1

end Sys2Proof.Machine
end

section
/-! PROOF. Liveness in fair infinite runs: the arbiter's step of the present phase is eventually taken, phase by phase up to ARB_ACK, and the transfer engine's frames end in a completion (70_reset_and_hazards.md R142, R143; 41_arbiter.md R89; 43_transfer_interface.md R109). -/

namespace Sys2Proof.Machine

/-! The phases and the ARB label of each. -/

/-- The ARB label whose step leads on from a phase (41_arbiter.md R89). -/
def Phase.label : Phase → Instr
  | .idle => .arbSample
  | .xf i => .arbXframe (BitVec.ofNat 16 i)
  | .ackw => .arbAck

/-- How many steps lead from a phase to ACKW, with `n` frames in a half. -/
def Phase.stepsToAckw (n : Nat) : Phase → Nat
  | .idle => n + 1
  | .xf i => n - i
  | .ackw => 0

theorem Phase.label_agent (ph : Phase) : ph.label.agent = .arb := by cases ph <;> rfl

theorem Phase.label_xf (fidx : BitVec 16) : (Phase.xf fidx.toNat).label = .arbXframe fidx := by
  simp [Phase.label]

theorem Phase.label_eq_arbAck_iff (ph : Phase) : ph.label = .arbAck ↔ ph = .ackw := by
  cases ph <;> simp [Phase.label]

theorem phase_congr {s t : State} (hpar : t.par = s.par) (hbusy : t.busy = s.busy)
    (hidx : t.idx = s.idx) : phase t = phase s := by
  simp only [phase, hpar, hbusy, hidx]

/-- Everything the phase can be (10_state.md R23). -/
theorem phase_cases {s : State} {ph : Phase} (h : phase s = some ph) :
    (s.busy = false ∧ ph = .idle)
      ∨ (s.busy = true ∧ s.idx.toNat < s.par.n ∧ ph = .xf s.idx.toNat)
      ∨ (s.busy = true ∧ s.idx.toNat = s.par.n ∧ ph = .ackw) := by
  cases hbusy : s.busy with
  | false =>
    rw [phase_of_idle hbusy] at h
    exact .inl ⟨rfl, (Option.some.inj h).symm⟩
  | true =>
    rcases lt_trichotomy s.idx.toNat s.par.n with hlt | hdone | hgt
    · rw [phase_of_frame hbusy hlt] at h
      exact .inr (.inl ⟨rfl, hlt, (Option.some.inj h).symm⟩)
    · rw [phase_of_done hbusy hdone] at h
      exact .inr (.inr ⟨rfl, hdone, (Option.some.inj h).symm⟩)
    · simp [phase, hbusy, hgt.not_gt, hgt.ne'] at h

/-- IDX is at most N, so the arbiter is always in a phase. -/
theorem exists_phase {s : State} (harb : ArbiterInv s) : ∃ ph, phase s = some ph := by
  have ⟨_, _, _, hidx, _⟩ := harb
  cases hbusy : s.busy with
  | false => exact ⟨_, phase_of_idle hbusy⟩
  | true =>
    rcases hidx.lt_or_eq with hlt | hdone
    · exact ⟨_, phase_of_frame hbusy hlt⟩
    · exact ⟨_, phase_of_done hbusy hdone⟩

/-- While a completion is pending, the label of the phase is enabled. -/
theorem stepExists_label {s : State} {ph : Phase} (harb : ArbiterInv s) (hflag : s.cmplFlag = true)
    (hphase : phase s = some ph) : stepExists ph.label s = true := by
  have ⟨_, hactive, _⟩ := harb
  rcases phase_cases hphase with ⟨hbusy, rfl⟩ | ⟨hbusy, hlt, rfl⟩ | ⟨hbusy, hdone, rfl⟩
  · exact (sampleEnabled_iff s).2 ⟨hactive hflag, hbusy, hflag⟩
  · rw [Phase.label_xf]
    exact (xframeEnabled_iff s.idx s).2 ⟨hbusy, rfl, hlt⟩
  · exact (ackEnabled_iff s).2 ⟨hbusy, hdone⟩

/-- An ARB step that is taken is the one of the phase. -/
theorem eq_label_of_exec {i : Instr} {s t : State} {ph : Phase} (hi : i.agent = .arb)
    (hphase : phase s = some ph) (h : exec i s = .next t) : i = ph.label := by
  obtain ⟨hsample, hframe, hack⟩ := arbiterPhasesFollowTheSequence
  cases i with
  | hostIdle | regRead | regWrite | teStep | benchLoad | benchRaise => cases hi
  | arbSample =>
    obtain rfl : ph = .idle := Option.some.inj (hphase.symm.trans (hsample s t h).1)
    rfl
  | arbXframe fidx =>
    obtain rfl : ph = .xf fidx.toNat := Option.some.inj (hphase.symm.trans (hframe s t fidx h).1)
    exact (Phase.label_xf fidx).symm
  | arbAck =>
    obtain rfl : ph = .ackw := Option.some.inj (hphase.symm.trans (hack s t h).1)
    rfl

/-- Before ACKW, the step of a phase leads to a phase nearer to it. -/
theorem phase_after_label {s t : State} {ph : Phase} (hphase : phase s = some ph) (hph : ph ≠ .ackw)
    (h : exec ph.label s = .next t) :
    ∃ ph', phase t = some ph' ∧ ph'.stepsToAckw s.par.n < ph.stepsToAckw s.par.n := by
  obtain ⟨hsample, hframe, -⟩ := arbiterPhasesFollowTheSequence
  rcases phase_cases hphase with ⟨-, rfl⟩ | ⟨-, hlt, rfl⟩ | ⟨-, -, rfl⟩
  · exact ⟨_, (hsample s t h).2, Nat.lt_succ_self _⟩
  · rw [Phase.label_xf] at h
    refine ⟨_, (hframe s t s.idx h).2, ?_⟩
    split <;> simp only [Phase.stepsToAckw] <;> omega
  · exact absurd rfl hph

/-! Pending completions. -/

/-- A completion is pending, and the arbiter is in phase `ph`. -/
structure PendingIn (ph : Phase) (s : State) : Prop where
  phase : phase s = some ph
  cmplFlag : s.cmplFlag = true

theorem PendingIn.active {ph : Phase} {s : State} (hs : PendingIn ph s) (harb : ArbiterInv s) :
    s.active = true := by
  have ⟨_, hactive, _⟩ := harb
  exact hactive hs.cmplFlag

/-- Only ARB_ACK takes a pending completion away. -/
theorem exec_keeps_cmplFlag {i : Instr} {s t : State} (hi : i ≠ .arbAck) (hactive : s.active = true)
    (hflag : s.cmplFlag = true) (h : exec i s = .next t) : t.cmplFlag = true := by
  obtain ⟨-, hset⟩ | hsame := exec_cmplFlag_of_ne_ack hi hactive h
  · exact hset
  · exact hsame.trans hflag

/-- A step is the one of the phase, or it leaves the phase and the pending completion. -/
theorem exec_pendingIn {i : Instr} {s t : State} {ph : Phase} (harb : ArbiterInv s)
    (hs : PendingIn ph s) (h : exec i s = .next t) : i = ph.label ∨ PendingIn ph t := by
  by_cases hi : i.agent = .arb
  · exact .inl (eq_label_of_exec hi hs.phase h)
  · obtain ⟨hbusy, hidx⟩ := exec_place_of_not_arb hi h
    have hne : i ≠ .arbAck := by rintro rfl; exact hi rfl
    exact .inr {
      phase := (phase_congr (exec_par h) hbusy hidx).trans hs.phase
      cmplFlag := exec_keeps_cmplFlag hne (hs.active harb) hs.cmplFlag h }

theorem takeStep_pendingIn {r : Request} {s t : State} {ph : Phase} (harb : ArbiterInv s)
    (hs : PendingIn ph s) (h : takeStep r s = .next t) : r = .label ph.label ∨ PendingIn ph t := by
  obtain ⟨i, rfl, hx⟩ | rfl := takeStep_next h
  · exact (exec_pendingIn harb hs hx).imp_left (congrArg Request.label)
  · exact .inr ⟨hs.phase, hs.cmplFlag⟩

/-! The transfer engine's progress. -/

/-- While streaming, TE_POS falls only where a completion is raised (43_transfer_interface.md R108). -/
theorem effect_tePos_le {i : Instr} {s u : State} (hactive : s.active = true) (h : Effect i s u) :
    u.cmplFlag = true ∨ s.tePos.toNat ≤ u.tePos.toNat := by
  cases h with
  | started _ _ hinactive => simp [hactive] at hinactive
  | stored _ hinactive => simp [hactive] at hinactive
  | moved =>
    rcases advanceEngine_cases _ with ⟨hlt, e⟩ | ⟨-, e⟩ <;> rw [e]
    · exact .inr ((Nat.le_succ _).trans_eq (idx_toNat hlt.le).symm)
    · exact .inl rfl
  | _ => exact .inr le_rfl

theorem takeStep_tePos_le {r : Request} {s t : State} (hactive : s.active = true)
    (h : takeStep r s = .next t) : t.cmplFlag = true ∨ s.tePos.toNat ≤ t.tePos.toNat := by
  obtain ⟨i, -, hx⟩ | rfl := takeStep_next h
  · obtain ⟨reason, rfl⟩ | ⟨u, hu, rfl⟩ := exec_next hx
    · exact .inr le_rfl
    · simpa using effect_tePos_le hactive hu
  · exact .inr le_rfl

/-- A TE_STEP raises a completion or goes one frame on (43_transfer_interface.md R108). -/
theorem exec_teStep_tePos {s t : State} {rxl rxr : Word} (hbench : s.par.bench = false)
    (hactive : s.active = true) (h : exec (.teStep rxl rxr) s = .next t) :
    t.cmplFlag = true ∨ t.tePos.toNat = s.tePos.toNat + 1 := by
  obtain ⟨sent, d, -, -, e⟩ := exec_teStep_streaming hbench hactive rxl rxr
  obtain rfl := Host.Outcome.next.inj (e.symm.trans h)
  rw [monitor_cmplFlag, monitor_tePos]
  rcases advanceEngine_cases (s.withMoved ⟨rxl, rxr⟩ sent d) with ⟨hlt, e⟩ | ⟨-, e⟩ <;> rw [e]
  · exact .inr (idx_toNat hlt.le)
  · exact .inl rfl

theorem takeStep_keeps_active {r : Request} {s t : State} (hactive : s.active = true)
    (h : takeStep r s = .next t) : t.active = true := by
  obtain ⟨i, -, hx⟩ | rfl := takeStep_next h
  · exact (exec_keepsSticky hx).active hactive
  · exact hactive

/-! Infinite runs. -/

section
variable {p : Params} {req : Nat → Request} {st : Nat → State}

theorem IsRun.takeStep_eq (hrun : IsRun p req st) (k : Nat) :
    takeStep (req k) (st k) = .next (st (k + 1)) := by
  obtain ⟨-, hstep⟩ := hrun
  exact hstep k

theorem IsRun.exec_eq (hrun : IsRun p req st) {k : Nat} {i : Instr} (hreq : req k = .label i) :
    exec i (st k) = .next (st (k + 1)) := by
  have h := hrun.takeStep_eq k
  rwa [hreq] at h

theorem IsRun.runInv (hrun : IsRun p req st) (k : Nat) : RunInv p (st k) := by
  induction k with
  | zero =>
    obtain ⟨hreset, -⟩ := hrun
    rw [hreset]
    exact resetFor_runInv p []
  | succ k ih => exact takeStep_keeps_runInv ih (hrun.takeStep_eq k)

/-- The rule of weak fairness (70_reset_and_hazards.md R142): if a condition enables an ARB label, and no
other step ends the condition, then the label is taken while it holds. -/
theorem ArbFair.eventually_taken (hfair : ArbFair req st) {i : Instr} (hi : i.agent = .arb)
    {P : Nat → Prop} (hexists : ∀ m, P m → stepExists i (st m) = true)
    (hkeeps : ∀ m, P m → req m = .label i ∨ P (m + 1)) {k : Nat} (hk : P k) :
    ∃ m, k ≤ m ∧ P m ∧ req m = .label i := by
  by_contra! hnever
  have hstays : ∀ m, k ≤ m → P m := by
    intro m hm
    induction m, hm using Nat.le_induction with
    | base => exact hk
    | succ m hm ih => exact (hkeeps m ih).resolve_left (hnever m hm ih)
  obtain ⟨m, hm, htaken⟩ := hfair i hi k fun m hm => hexists m (hstays m hm)
  exact hnever m hm (hstays m hm) htaken

/-- The step of the phase that a pending completion is in is eventually taken. -/
theorem IsRun.label_taken (hrun : IsRun p req st) (hfair : ArbFair req st) {ph : Phase} {k : Nat}
    (hk : PendingIn ph (st k)) : ∃ m, k ≤ m ∧ PendingIn ph (st m) ∧ req m = .label ph.label :=
  hfair.eventually_taken ph.label_agent
    (fun m hm => stepExists_label (hrun.runInv m).arbiter hm.cmplFlag hm.phase)
    (fun m hm => takeStep_pendingIn (hrun.runInv m).arbiter hm (hrun.takeStep_eq m)) hk

/-- Phase by phase, a pending completion comes to its ARB_ACK. -/
theorem IsRun.ack_taken (hrun : IsRun p req st) (hfair : ArbFair req st) {ph : Phase} {k : Nat}
    (hk : PendingIn ph (st k)) : ∃ m, k ≤ m ∧ PendingIn .ackw (st m) ∧ req m = .label .arbAck := by
  induction hd : ph.stepsToAckw p.n using Nat.strong_induction_on generalizing ph k with
  | h d ih =>
    obtain ⟨m, hkm, hm, hreq⟩ := hrun.label_taken hfair hk
    have hinv := hrun.runInv m
    have hexec := hrun.exec_eq hreq
    by_cases hph : ph = .ackw
    · subst hph
      exact ⟨m, hkm, hm, hreq⟩
    · obtain ⟨ph', hphase, hlt⟩ := phase_after_label hm.phase hph hexec
      have hnext : PendingIn ph' (st (m + 1)) :=
        ⟨hphase, exec_keeps_cmplFlag (mt ph.label_eq_arbAck_iff.1 hph) (hm.active hinv.arbiter)
          hm.cmplFlag hexec⟩
      rw [hinv.par, hd] at hlt
      obtain ⟨m', hm', hack⟩ := ih _ hlt hnext rfl
      exact ⟨m', by omega, hack⟩

theorem IsRun.active_of_le (hrun : IsRun p req st) {k m : Nat} (hactive : (st k).active = true)
    (hm : k ≤ m) : (st m).active = true := by
  induction m, hm using Nat.le_induction with
  | base => exact hactive
  | succ m _ ih => exact takeStep_keeps_active ih (hrun.takeStep_eq m)

/-- With no completion in sight, TE_POS never falls. -/
theorem IsRun.tePos_le (hrun : IsRun p req st) {k m : Nat} (hactive : (st k).active = true)
    (hnever : ∀ j, k ≤ j → (st j).cmplFlag ≠ true) (hm : k ≤ m) :
    (st k).tePos.toNat ≤ (st m).tePos.toNat := by
  induction m, hm using Nat.le_induction with
  | base => exact le_rfl
  | succ m hm ih =>
    have hstep := takeStep_tePos_le (hrun.active_of_le hactive hm) (hrun.takeStep_eq m)
    exact ih.trans (hstep.resolve_left (hnever (m + 1) (by omega)))

/-- Without a completion TE_POS would pass every bound, but it stays below N (10_state.md R26). -/
theorem IsRun.completion_raised (hrun : IsRun p req st) (hbench : p.bench = false)
    (hte : TeFair req st) {k : Nat} (hactive : (st k).active = true) :
    ∃ m, k ≤ m ∧ (st m).cmplFlag = true := by
  by_contra! hnever
  have hclimb : ∀ n, ∃ m, k ≤ m ∧ n ≤ (st m).tePos.toNat := by
    intro n
    induction n with
    | zero => exact ⟨k, le_rfl, Nat.zero_le _⟩
    | succ n ih =>
      obtain ⟨m, hkm, hn⟩ := ih
      have hmactive := hrun.active_of_le hactive hkm
      have hengine (j : Nat) : (st j).par.bench = false := by rw [(hrun.runInv j).par, hbench]
      obtain ⟨m', hmm', rxl, rxr, hreq⟩ := hte m (hengine m) hmactive
      have hle := hrun.tePos_le hmactive (fun j hj => hnever j (hkm.trans hj)) hmm'
      have hstep := exec_teStep_tePos (hengine m') (hrun.active_of_le hmactive hmm')
        (hrun.exec_eq hreq)
      have hnext := hstep.resolve_left (hnever (m' + 1) (by omega))
      exact ⟨m' + 1, by omega, by omega⟩
  obtain ⟨m, -, hm⟩ := hclimb p.n
  obtain ⟨hpos, -⟩ := (hrun.runInv m).engine
  rw [(hrun.runInv m).par] at hpos
  omega

end

/-- Settles O59: a pending completion finds the arbiter in a phase, from which it comes to ARB_ACK, and that
step clears the flag. -/
theorem everyCompletionIsAcknowledged : Obligations.EveryCompletionIsAcknowledged := by
  intro p req st hrun hfair k hflag
  obtain ⟨ph, hphase⟩ := exists_phase (hrun.runInv k).arbiter
  obtain ⟨m, hkm, hm, hreq⟩ := hrun.ack_taken hfair ⟨hphase, hflag⟩
  have hcleared : (st (m + 1)).cmplFlag = false := by
    obtain ⟨-, e⟩ := (exec_arbAck_eq_next_iff _ _).1 (hrun.exec_eq hreq)
    rw [e, monitor_cmplFlag, leaveArbiter_cmplFlag]
  exact ⟨m, hkm, hreq, hm.cmplFlag, hcleared⟩

/-- Settles O60: the engine's frames come to a completion, and every completion is acknowledged. -/
theorem fairStreamingAcknowledgesForever : Obligations.FairStreamingAcknowledgesForever := by
  intro p req st hbench hrun hfair hte k hactive
  obtain ⟨m, hkm, hflag⟩ := hrun.completion_raised hbench hte hactive
  obtain ⟨m', hmm', hreq, -, -⟩ := everyCompletionIsAcknowledged p req st hrun hfair m hflag
  exact ⟨m', hkm.trans hmm', hreq⟩

end Sys2Proof.Machine
end

section
/-! PROOF. The two forms of a run: no operation reads or writes the schedule, so a label does the same whatever words stand behind it, and runs of `step` and sequences of requests go over into each other request by request (00_scope.md R7; 70_reset_and_hazards.md R143; log entries 5 and 13). -/

namespace Sys2Proof.Machine

/-! No label reads or writes the schedule. -/

/-- An outcome with its next state, if it has one, under `f`. -/
def mapNext (f : State → State) : Host.Outcome State Fault Refusal → Host.Outcome State Fault Refusal
  | .next s => .next (f s)
  | .fault reason => .fault reason
  | .refused reason => .refused reason

@[simp] theorem takeLabels_wordAt (ls : List Word) (s : State) (a : Nat) :
    (takeLabels ls s).wordAt a = s.wordAt a := rfl

theorem memRead_takeLabels (a : Nat) (ls : List Word) (s : State) :
    memRead a (takeLabels ls s) = ((memRead a s).1, takeLabels ls (memRead a s).2) := by
  simp only [memRead, takeLabels_wordAt]
  cases s.wordAt a <;> rfl

theorem readFrame_takeLabels (base : Word) (h : Half) (i : Nat) (ls : List Word) (s : State) :
    readFrame base h i (takeLabels ls s)
      = ((readFrame base h i s).1, takeLabels ls (readFrame base h i s).2) := by
  simp only [readFrame, memRead_takeLabels, takeLabels_par]

theorem writeFrame_takeLabels (base : Word) (h : Half) (i : Nat) (f : Frame) (ls : List Word)
    (s : State) : writeFrame base h i f (takeLabels ls s) = takeLabels ls (writeFrame base h i f s) :=
  rfl

theorem transformFrame_takeLabels (i : Nat) (ls : List Word) (s : State) :
    transformFrame i (takeLabels ls s) = takeLabels ls (transformFrame i s) := by
  simp only [transformFrame, readFrame_takeLabels]
  rfl

theorem advanceEngine_takeLabels (ls : List Word) (s : State) :
    advanceEngine (takeLabels ls s) = takeLabels ls (advanceEngine s) := by
  rcases advanceEngine_cases s with ⟨hlt, e⟩ | ⟨hlast, e⟩ <;> rw [e]
  · exact if_pos hlt
  · exact if_neg hlast

theorem moveFrame_takeLabels (received : Frame) (ls : List Word) (s : State) :
    moveFrame received (takeLabels ls s) = takeLabels ls (moveFrame received s) := by
  simp only [moveFrame, writeFrame_takeLabels, readFrame_takeLabels, takeLabels_tePos,
    takeLabels_inBase, takeLabels_outBase, takeLabels_teHalf, takeLabels_tx]
  generalize readFrame s.outBase s.teHalf s.tePos.toNat
    (writeFrame s.inBase s.teHalf s.tePos.toNat received s) = sent
  exact advanceEngine_takeLabels ls { sent.2 with tx := s.tx ++ [sent.1] }

theorem writeLocked_takeLabels (reg : Reg) (data : Word) (ls : List Word) (s : State) :
    writeLocked reg data (takeLabels ls s) = (writeLocked reg data s).map (takeLabels ls) := by
  have hstore : storeReg reg data (takeLabels ls s) = takeLabels ls (storeReg reg data s) := by
    cases reg <;> rfl
  simp only [writeLocked, takeLabels_active, takeLabels_cfgErr, hstore]
  split <;> rfl

theorem start_takeLabels (ls : List Word) (s : State) :
    start (takeLabels ls s) = (start s).map (takeLabels ls) := by
  have hstream : startStreaming (takeLabels ls s) = takeLabels ls (startStreaming s) := by
    cases hbench : s.par.bench
    · rw [startStreaming_engine hbench, startStreaming_engine (s := takeLabels ls s) hbench]
      rfl
    · rw [startStreaming_bench hbench, startStreaming_bench (s := takeLabels ls s) hbench]
      rfl
  by_cases hlock : s.active = true ∨ s.cfgErr = true
  · rw [start_of_locked hlock, start_of_locked (s := takeLabels ls s) hlock]
    rfl
  obtain ⟨hactive, herr⟩ : s.active = false ∧ s.cfgErr = false := by simpa using hlock
  by_cases hptr : s.par.bench = false → s.par.ptrAlt ≠ s.inBase
  · rw [start_of_accepted hactive herr hptr,
      start_of_accepted (s := takeLabels ls s) hactive herr hptr, hstream]
    cases hok : startOk s
    · rw [show startOk (takeLabels ls s) = false from hok]
      rfl
    · rw [show startOk (takeLabels ls s) = true from hok]
      rfl
  · obtain ⟨hbench, hsame⟩ : s.par.bench = false ∧ s.par.ptrAlt = s.inBase := by simpa using hptr
    rw [start_of_ptrAlt hactive herr hbench hsame,
      start_of_ptrAlt (s := takeLabels ls s) hactive herr hbench hsame]
    rfl

theorem writeReg_takeLabels (reg : Reg) (data : Word) (ls : List Word) (s : State) :
    writeReg reg data (takeLabels ls s) = (writeReg reg data s).map (takeLabels ls) := by
  cases reg with
  | ctrl =>
    simp only [writeReg, start_takeLabels]
    split <;> rfl
  | status | frames => rfl
  | _ => exact writeLocked_takeLabels _ data ls s

theorem taken_takeLabels (ls : List Word) (s : State) :
    taken (takeLabels ls s) = mapNext (takeLabels ls) (taken s) := by
  rw [taken, taken, monitor_eq, monitor_eq]
  rfl

theorem refusedStep_takeLabels (reason : RefuseReason) (ls : List Word) (s : State) :
    refusedStep reason (takeLabels ls s) = mapNext (takeLabels ls) (refusedStep reason s) := rfl

theorem guarded_takeLabels (c : Bool) (ls : List Word) (s : State) :
    (if c then taken (takeLabels ls s) else .refused .notEnabled)
      = mapNext (takeLabels ls) (if c then taken s else .refused .notEnabled) := by
  cases c with
  | false => rfl
  | true => exact taken_takeLabels ls s

/-- A label does the same whatever words the schedule holds, and leaves them. -/
theorem exec_takeLabels (i : Instr) (ls : List Word) (s : State) :
    exec i (takeLabels ls s) = mapNext (takeLabels ls) (exec i s) := by
  cases i with
  | hostIdle => exact taken_takeLabels ls s
  | regRead widx =>
    cases hreg : regOperand widx with
    | none =>
      rw [exec_regRead_of_unmapped hreg, exec_regRead_of_unmapped hreg]
      rfl
    | some reg =>
      have hread : readReg reg (takeLabels ls s) = readReg reg s := by cases reg <;> rfl
      simp only [exec, execRegRead, hreg, hread]
      exact taken_takeLabels ls { s with rd := s.rd ++ [readReg reg s] }
  | regWrite widx data =>
    cases hreg : regOperand widx with
    | none =>
      rw [exec_regWrite_of_unmapped hreg, exec_regWrite_of_unmapped hreg]
      rfl
    | some reg =>
      rw [exec_regWrite_of_mapped hreg, exec_regWrite_of_mapped hreg, writeReg_takeLabels]
      cases writeReg reg data s with
      | ok u => exact taken_takeLabels ls u
      | error reason => exact refusedStep_takeLabels reason ls s
  | arbSample => exact guarded_takeLabels (sampleEnabled s) ls (enterArbiter s)
  | arbXframe fidx =>
    simp only [exec, execArbXframe, transformFrame_takeLabels]
    exact guarded_takeLabels (xframeEnabled fidx s) ls (transformFrame fidx.toNat s)
  | arbAck => exact guarded_takeLabels (ackEnabled s) ls (leaveArbiter s)
  | teStep rxl rxr =>
    simp only [exec, execTeStep, takeLabels_par, moveFrame_takeLabels]
    split
    · exact refusedStep_takeLabels .mode ls s
    · exact guarded_takeLabels (teEnabled s) ls (moveFrame ⟨rxl, rxr⟩ s)
  | benchLoad buf kidx value =>
    have hbase : bufBase buf (takeLabels ls s) = bufBase buf s := by cases buf <;> rfl
    have hrefusal : benchLoadRefusal buf kidx (takeLabels ls s) = benchLoadRefusal buf kidx s := by
      cases buf <;> rfl
    simp only [exec, execBenchLoad, hbase, hrefusal]
    cases benchLoadRefusal buf kidx s with
    | none => exact taken_takeLabels ls (memWrite (benchAddr (bufBase buf s) kidx) value s)
    | some reason => exact refusedStep_takeLabels reason ls s
  | benchRaise ptr =>
    have hrefusal : benchRaiseRefusal (takeLabels ls s) = benchRaiseRefusal s := rfl
    simp only [exec, execBenchRaise, hrefusal]
    cases benchRaiseRefusal s with
    | none => exact taken_takeLabels ls (raiseCompletion ptr s)
    | some reason => exact refusedStep_takeLabels reason ls s

/-! One step of each form of a run. -/

theorem takeStep_takeLabels (r : Request) (ls : List Word) (s : State) :
    takeStep r (takeLabels ls s) = mapNext (takeLabels ls) (takeStep r s) := by
  cases r with
  | label i => exact exec_takeLabels i ls s
  | illegal => exact refusedStep_takeLabels .illegalLabel ls s

theorem takeStep_takeLabels_of_next {r : Request} {s t : State} (h : takeStep r s = .next t)
    (ls : List Word) : takeStep r (takeLabels ls s) = .next (takeLabels ls t) :=
  (takeStep_takeLabels r ls s).trans (congrArg _ h)

theorem takeStep_keeps_labels {r : Request} {s t : State} (h : takeStep r s = .next t) :
    t.labels = s.labels := by
  have hself : t = takeLabels s.labels t :=
    Host.Outcome.next.inj (h.symm.trans (takeStep_takeLabels_of_next h s.labels))
  rw [hself, takeLabels_labels]

/-- `step` takes a request whose words stand at the front of the schedule. -/
theorem step_takeLabels_append (r : Request) (rest : List Word) (s : State) :
    step (takeLabels (requestWords r ++ rest) s) = takeStep r (takeLabels rest s) := by
  cases r with
  | label i =>
    have hd : decode (encode i ++ rest) = .label i rest := decode_eq_label_iff.2 rfl
    simp only [step, takeLabels_labels, requestWords, hd]
    rfl
  | illegal => rfl

/-- Every next state of `step` is some request's, but for the words in the schedule. -/
theorem exists_takeStep_of_step {s t : State} (h : step s = .next t) (ls : List Word) :
    ∃ r, takeStep r (takeLabels ls s) = .next (takeLabels ls t) := by
  obtain ⟨i, rest, -, hx⟩ | ⟨_, rest, -, rfl⟩ := step_next h
  · exact ⟨.label i, takeStep_takeLabels_of_next (r := .label i) hx ls⟩
  · exact ⟨.illegal, rfl⟩

theorem run_succ_eq_next_iff {M : Host.Core} {k : Nat} {s t : M.State} :
    M.run (k + 1) s = .next t ↔ ∃ u, M.step s = .next u ∧ M.run k u = .next t := by
  rw [Host.Core.run]
  cases M.step s <;> simp

/-! Infinite runs from any state. -/

/-- An infinite run from `s`. -/
def IsRunFrom (s : State) (req : Nat → Request) (st : Nat → State) : Prop :=
  st 0 = s ∧ ∀ k, takeStep (req k) (st k) = .next (st (k + 1))

theorem isRun_iff_isRunFrom {p : Params} {req : Nat → Request} {st : Nat → State} :
    IsRun p req st ↔ IsRunFrom (State.resetFor p) req st := Iff.rfl

theorem IsRunFrom.tail {s : State} {req : Nat → Request} {st : Nat → State}
    (hrun : IsRunFrom s req st) :
    IsRunFrom (st 1) (fun k => req (k + 1)) (fun k => st (k + 1)) := by
  obtain ⟨-, hstep⟩ := hrun
  exact ⟨rfl, fun k => hstep (k + 1)⟩

theorem IsRunFrom.cons {s t : State} {r : Request} {req : Nat → Request} {st : Nat → State}
    (h : takeStep r s = .next t) (hrun : IsRunFrom t req st) :
    IsRunFrom s (Stream'.cons r req) (Stream'.cons s st) := by
  obtain ⟨rfl, hstep⟩ := hrun
  exact ⟨rfl, fun
    | 0 => h
    | k + 1 => hstep k⟩

/-- HOST_IDLE can be taken for ever (42_session.md R99). -/
theorem idle_isRunFrom (s : State) :
    IsRunFrom s (fun _ => .label .hostIdle) (fun k => monitor^[k] s) :=
  ⟨rfl, fun k => congrArg _ (Function.iterate_succ_apply' monitor k s).symm⟩

theorem IsRunFrom.labels_eq {s : State} {req : Nat → Request} {st : Nat → State}
    (hrun : IsRunFrom s req st) (k : Nat) : (st k).labels = s.labels := by
  obtain ⟨rfl, hstep⟩ := hrun
  induction k with
  | zero => rfl
  | succ k ih => exact (takeStep_keeps_labels (hstep k)).trans ih

/-! Between the two forms. -/

theorem wordsBefore_succ (req : Nat → Request) (k : Nat) :
    wordsBefore req (k + 1) = requestWords (req 0) ++ wordsBefore (fun m => req (m + 1)) k := by
  simp [wordsBefore, List.range_succ_eq_map, List.flatMap_map]

/-- From an infinite run to the machine: `step` takes the words of the run's first requests, and no
more. -/
theorem IsRunFrom.run_eq {s : State} {req : Nat → Request} {st : Nat → State}
    (hrun : IsRunFrom s req st) (k : Nat) :
    Host.Core.run Sys2Proof.core k (takeLabels (wordsBefore req k) s)
      = .next (takeLabels [] (st k)) := by
  induction k generalizing s req st with
  | zero =>
    obtain ⟨rfl, -⟩ := hrun
    rfl
  | succ k ih =>
    have htail := ih hrun.tail
    obtain ⟨rfl, hstep⟩ := hrun
    refine run_succ_eq_next_iff.2 ⟨_, ?_, htail⟩
    rw [wordsBefore_succ]
    exact (step_takeLabels_append _ _ _).trans (takeStep_takeLabels_of_next (hstep 0) _)

/-- From the machine to an infinite run: each step is a request's, and HOST_IDLE follows the last. -/
theorem exists_isRunFrom_of_run {k : Nat} {s t : State}
    (h : Host.Core.run Sys2Proof.core k s = .next t) :
    ∃ req st, IsRunFrom (takeLabels [] s) req st ∧ st k = takeLabels [] t := by
  induction k generalizing s with
  | zero =>
    obtain rfl : s = t := Host.Outcome.next.inj h
    exact ⟨_, _, idle_isRunFrom _, rfl⟩
  | succ k ih =>
    obtain ⟨u, hstep, hrest⟩ := run_succ_eq_next_iff.1 h
    obtain ⟨r, hfirst⟩ := exists_takeStep_of_step hstep []
    obtain ⟨req, st, hrun, hend⟩ := ih hrest
    exact ⟨_, _, hrun.cons hfirst, hend⟩

/-- Settles O56: the schedule of an infinite run's states stays empty, as it is at reset, so the machine on
the words of its first requests ends in the run's own state; and a finite run goes on with HOST_IDLE. -/
theorem runPrefixesAreTheMachinesRuns : Obligations.RunPrefixesAreTheMachinesRuns := by
  refine ⟨fun p req st k hrun => ?machine, fun p ls k t h => exists_isRunFrom_of_run h⟩
  case machine =>
    have hfrom := isRun_iff_isRunFrom.1 hrun
    have hempty : (st k).labels = [] := hfrom.labels_eq k
    calc Host.Core.run Sys2Proof.core k (takeLabels (wordsBefore req k) (State.resetFor p))
      _ = .next (takeLabels [] (st k)) := hfrom.run_eq k
      _ = .next (takeLabels (st k).labels (st k)) := by rw [hempty]
      _ = .next (st k) := rfl

end Sys2Proof.Machine
end
